-- ==== Sys2Proof/Word.lean ====
section
/-! DEFINITION. The two word types of the engine: everything it reads or writes is a byte, except the 16-bit length field of
a frame (rule R9 of 00_scope.md, rule R36 of 20_memory.md).  All values are unsigned (rule R10). -/

namespace Sys2Proof

/-- A byte, bit 0 its least significant bit (rule R10). -/
abbrev Byte := BitVec 8

/-- The frame length field, the only value of the engine wider than a byte (rule R36). -/
abbrev Half := BitVec 16

end Sys2Proof
end

