-- ==== Sys2Proof/Config.lean ====
section
/-! DEFINITION. The parameters of rule R7 (00_scope.md), "fixed for the lifetime of an engine instance".  The literals are
named constants, as rule R8 asks, so that an audit changes one definition.  The two parameters the spec leaves OPEN (the table;
whether DECODE verifies) are fields of Params, which a state carries, so that a claim about every state is a claim about every
value of them (notes/assumptions/2.md). -/

namespace Sys2Proof

/-- The parameters the spec leaves open (rule R7): "OPEN means the model takes the value as an argument". -/
structure Params where
  /-- `SUBST_TABLE`: 256 read-only bytes (rule R23), whose entries the source does not give. -/
  substTable : Vector Byte 256
  /-- `VERIFY_ON_DECODE` (rule R90). -/
  verifyOnDecode : Bool
  deriving DecidableEq, Repr

/-- `MARKER0`, rule R7. -/
def Config.marker0 : Byte := 0x22

/-- `MARKER1`, rule R7. -/
def Config.marker1 : Byte := 0x21

/-- `RESERVED_BYTE`, rule R7. -/
def Config.reservedByte : Byte := 0x00

/-- `TERMINATOR`, rule R7. -/
def Config.terminator : Byte := 0xFF

/-- `MAX_PAYLOAD`, rule R7. -/
def Config.maxPayload : Nat := 65535

/-- `ROW_WIDTH_DEFAULT`, rule R7. -/
def Config.rowWidthDefault : Nat := 384

/-- `BYTES_PER_ROW_DEFAULT`, rule R7. -/
def Config.bytesPerRowDefault : Nat := 48

/-- `MIN_LINES_DEFAULT`, rule R7. -/
def Config.minLinesDefault : Nat := 90

/-- `VERIFY_ON_DECODE`'s default (rule R7, decision D10). -/
def Config.verifyOnDecode : Bool := false

/-- FREE VALUE (notes/assumptions/1.md).  The entries of `SUBST_TABLE`, which the source does not reproduce (rule R23,
decision D5, 93_implementation_defined.md I1: "must not be built into the model").  No body: no proof can lean on an entry. -/
opaque Config.substTable : Vector Byte 256

/-- The parameters of the instance that `State.reset` describes: the free table, and the default decode mode. -/
def Config.params : Params :=
  { substTable := Config.substTable, verifyOnDecode := Config.verifyOnDecode }

end Sys2Proof
end

