-- ==== Sys2Proof/Syntax.lean ====
section
/-! DEFINITION. The engine's instructions: one constructor for each row of spec/opcode_table.json.

The seven `request` rows are the operations of the request port with the operands rule R59 (30_encoding.md) lists.  The five
`frame_header` rows are not operations of their own (rule R64): such a row says which frame the input of a DECODE request is,
by the first four bytes `22 21 cmdId flags`.  Their constructors carry what the row leaves open: byte 3 (`flags`, unmatched)
and every byte after the header (notes/assumptions/5.md). -/

namespace Sys2Proof

/-- The instructions of spec/opcode_table.json. -/
inductive Instr where
  /-- CRC_CLEAR, op 0x01, rule R70. -/
  | crcClear
  /-- CRC_STEP, op 0x02, rule R72. -/
  | crcStep (b : Byte)
  /-- CRC_READ, op 0x03, rule R73. -/
  | crcRead
  /-- CHECKSUM, op 0x10, rule R74. -/
  | checksum (input : List Byte)
  /-- ENCODE, op 0x20, rule R85. -/
  | encode (cmdId : Byte) (payload : List Byte)
  /-- DECODE, op 0x21, rule R88. -/
  | decode (input : List Byte)
  /-- PACK, op 0x30, rule R100. -/
  | pack (rows : List (List Bool)) (rowWidth bytesPerRow minLines : Nat)
  /-- DECODE of `22 21 A1 flags rest`: a get-status frame (rules R55, R64). -/
  | frameGetStatus (flags : Byte) (rest : List Byte)
  /-- DECODE of `22 21 A2 flags rest`: a set-intensity frame (rules R55, R64). -/
  | frameSetIntensity (flags : Byte) (rest : List Byte)
  /-- DECODE of `22 21 A9 flags rest`: a print-request frame or its acknowledgment (rules R55, R64). -/
  | framePrintRequest (flags : Byte) (rest : List Byte)
  /-- DECODE of `22 21 AA flags rest`: a print-complete notification (rules R55, R64). -/
  | framePrintComplete (flags : Byte) (rest : List Byte)
  /-- DECODE of `22 21 AD flags rest`: a flush-data frame (rules R55, R64). -/
  | frameFlushData (flags : Byte) (rest : List Byte)
  deriving DecidableEq, Repr

end Sys2Proof
end

