-- ==== Sys2Proof/Decode.lean ====
section
/-! DEFINITION. The request of the engine's port (rules R58, R59), the decoder from a request to an instruction, total on every
operation code and every operand, and the encoder.  Selecting codes: rule R59 for the `op` byte, rules R55 and R64 for the
header of a frame. -/

namespace Sys2Proof

/-! ## The request -/

/-- The typed operand fields of rule R59.  A request's `op` fixes which of them it has (rule R61); the others are absent, and a
request leaves them at the zero or empty value given here.  No operation reads a field that rule R59 does not list for it
(notes/assumptions/4.md). -/
structure Operands where
  /-- `b` of CRC_STEP. -/
  b : Byte := 0
  /-- `In` of CHECKSUM and DECODE. -/
  input : List Byte := []
  /-- `cmdId` of ENCODE. -/
  cmdId : Byte := 0
  /-- `P` of ENCODE. -/
  payload : List Byte := []
  /-- `rows` of PACK. -/
  rows : List (List Bool) := []
  /-- `rowWidth` of PACK. -/
  rowWidth : Nat := 0
  /-- `bytesPerRow` of PACK. -/
  bytesPerRow : Nat := 0
  /-- `minLines` of PACK. -/
  minLines : Nat := 0
  deriving DecidableEq, Repr

/-- A request `{op, operands}` (rule R58). -/
structure Request where
  op : Byte
  operands : Operands := {}
  deriving DecidableEq, Repr

/-- The seven operations of the request port (rule R3). -/
inductive Operation where
  | crcClear
  | crcStep
  | crcRead
  | checksum
  | encode
  | decode
  | pack
  deriving DecidableEq, Repr

/-- Operation codes, rule R59. -/
def Operation.code : Operation → Byte
  | .crcClear => 0x01
  | .crcStep => 0x02
  | .crcRead => 0x03
  | .checksum => 0x10
  | .encode => 0x20
  | .decode => 0x21
  | .pack => 0x30

/-- The operation an `op` byte selects; none for every value rule R60 calls illegal. -/
def operationOf (op : Byte) : Option Operation :=
  if op = 0x01 then some .crcClear
  else if op = 0x02 then some .crcStep
  else if op = 0x03 then some .crcRead
  else if op = 0x10 then some .checksum
  else if op = 0x20 then some .encode
  else if op = 0x21 then some .decode
  else if op = 0x30 then some .pack
  else none

/-! ## The command identifiers of frame headers -/

/-- The five command identifiers of rule R55. -/
inductive CommandId where
  | getStatus
  | setIntensity
  | printRequest
  | printComplete
  | flushData
  deriving DecidableEq, Repr

/-- Byte 2 of a frame, rule R55. -/
def CommandId.code : CommandId → Byte
  | .getStatus => 0xA1
  | .setIntensity => 0xA2
  | .printRequest => 0xA9
  | .printComplete => 0xAA
  | .flushData => 0xAD

/-- The command identifier a byte is, where rule R55 names it. -/
def commandOf (c : Byte) : Option CommandId :=
  if c = 0xA1 then some .getStatus
  else if c = 0xA2 then some .setIntensity
  else if c = 0xA9 then some .printRequest
  else if c = 0xAA then some .printComplete
  else if c = 0xAD then some .flushData
  else none

/-- The bytes of a frame whose header names a command of rule R55: markers, identifier, byte 3, and whatever follows. -/
def frameInput (c : CommandId) (flags : Byte) (rest : List Byte) : List Byte :=
  Config.marker0 :: Config.marker1 :: c.code :: flags :: rest

/-- Which `frame_header` row an input matches (rule R64): the top 24 bits of `H = In[0] << 24 | In[1] << 16 | In[2] << 8 |
In[3]`, that is bytes 0, 1 and 2; byte 3 is not matched. -/
def frameHeaderOf (input : List Byte) : Option (CommandId × Byte × List Byte) :=
  match input with
  | m0 :: m1 :: c :: flags :: rest =>
    if m0 = Config.marker0 ∧ m1 = Config.marker1 then
      match commandOf c with
      | some command => some (command, flags, rest)
      | none => none
    else none
  | _ => none

/-- The instruction of a `frame_header` row. -/
def instrOfFrame (c : CommandId) (flags : Byte) (rest : List Byte) : Instr :=
  match c with
  | .getStatus => .frameGetStatus flags rest
  | .setIntensity => .frameSetIntensity flags rest
  | .printRequest => .framePrintRequest flags rest
  | .printComplete => .framePrintComplete flags rest
  | .flushData => .frameFlushData flags rest

/-! ## Decoding -/

/-- What the decoder answers: an instruction, or the `op` value it rejects (rule R60). -/
inductive Decoded where
  | instr (i : Instr)
  | illegalOp (op : Byte)
  deriving DecidableEq, Repr

/-- A DECODE request's instruction: the frame its header identifies, else DECODE of the input as it is (rule R64). -/
def decodeInput (input : List Byte) : Instr :=
  match frameHeaderOf input with
  | some (c, flags, rest) => instrOfFrame c flags rest
  | none => .decode input

/-- The instruction a request is (rules R59, R60, R64); `op` is looked at before any operand (rule R124). -/
def decode (r : Request) : Decoded :=
  match operationOf r.op with
  | none => .illegalOp r.op
  | some .crcClear => .instr .crcClear
  | some .crcStep => .instr (.crcStep r.operands.b)
  | some .crcRead => .instr .crcRead
  | some .checksum => .instr (.checksum r.operands.input)
  | some .encode => .instr (.encode r.operands.cmdId r.operands.payload)
  | some .decode => .instr (decodeInput r.operands.input)
  | some .pack =>
    .instr (.pack r.operands.rows r.operands.rowWidth r.operands.bytesPerRow r.operands.minLines)

/-! ## Encoding -/

/-- A DECODE request with the given input. -/
def decodeRequest (input : List Byte) : Request :=
  { op := Operation.decode.code, operands := { input := input } }

/-- The request of an instruction: its operation code and the operands rule R59 lists for it. -/
def encode : Instr → Request
  | .crcClear => { op := Operation.crcClear.code }
  | .crcStep b => { op := Operation.crcStep.code, operands := { b := b } }
  | .crcRead => { op := Operation.crcRead.code }
  | .checksum input => { op := Operation.checksum.code, operands := { input := input } }
  | .encode cmdId payload =>
    { op := Operation.encode.code, operands := { cmdId := cmdId, payload := payload } }
  | .decode input => decodeRequest input
  | .pack rows rowWidth bytesPerRow minLines =>
    { op := Operation.pack.code
      operands :=
        { rows := rows, rowWidth := rowWidth, bytesPerRow := bytesPerRow, minLines := minLines } }
  | .frameGetStatus flags rest => decodeRequest (frameInput .getStatus flags rest)
  | .frameSetIntensity flags rest => decodeRequest (frameInput .setIntensity flags rest)
  | .framePrintRequest flags rest => decodeRequest (frameInput .printRequest flags rest)
  | .framePrintComplete flags rest => decodeRequest (frameInput .printComplete flags rest)
  | .frameFlushData flags rest => decodeRequest (frameInput .flushData flags rest)

/-- A request that carries no operand field but those rule R59 lists for its `op` ("The request carries no other field", rule
R58): every other field is absent, that is at its zero or empty value.  Of a request with an illegal `op` nothing is asked,
since no operand of it is ever examined (rule R124). -/
def Request.wf (r : Request) : Bool :=
  match operationOf r.op with
  | none => true
  | some .crcClear => r.operands == {}
  | some .crcStep => r.operands == { b := r.operands.b }
  | some .crcRead => r.operands == {}
  | some .checksum => r.operands == { input := r.operands.input }
  | some .encode => r.operands == { cmdId := r.operands.cmdId, payload := r.operands.payload }
  | some .decode => r.operands == { input := r.operands.input }
  | some .pack =>
    r.operands ==
      { rows := r.operands.rows, rowWidth := r.operands.rowWidth
        bytesPerRow := r.operands.bytesPerRow, minLines := r.operands.minLines }

/-! ## The opcode table's words -/

/-- The four header bytes of the word `H` of rule R64, `In[0]` its most significant byte. -/
def headerBytes (h : Nat) : List Byte :=
  [BitVec.ofNat 8 (h >>> 24), BitVec.ofNat 8 (h >>> 16), BitVec.ofNat 8 (h >>> 8), BitVec.ofNat 8 h]

/-- The request whose table bits are `w`: an `op` byte with every operand zero or empty, or a DECODE request whose input is the
four header bytes of `H` and zero bytes up to the end of a frame with length field 0 (rules R51, R64). -/
def tableRequest (nbits w : Nat) : Request :=
  if nbits ≤ 8 then { op := BitVec.ofNat 8 w }
  else decodeRequest (headerBytes w ++ [0, 0, 0, 0])

/-- The instruction the decoder reads from a word of spec/opcode_table.json, the bits above `nbits` zero. -/
def decodeTableWord (nbits w : Nat) : Option Instr :=
  match decode (tableRequest nbits w) with
  | .instr i => some i
  | .illegalOp _ => none

end Sys2Proof
end

