-- ==== Sys2Proof/Machine/State.lean ====
section
/-! DEFINITION. The engine's state (file 10_state.md, table of rule R31), its two port sides as the environment's data, and the
state after reset.  The engine has one register, ACC, and constants; it has no general registers, pc, flags, control registers,
memory or address space (rules R20, R21, R25, R27, R28, R29), so State holds none. -/

namespace Sys2Proof.Machine

/-- The result codes of rule R120; their byte values are `statusCode` (Machine/Flags.lean). -/
inductive ResultCode where
  | ok
  | errOp
  | errMarker
  | errShort
  | errTruncated
  | errCorrupt
  | errTooLong
  | errGeometry
  | errRowWidth
  deriving DecidableEq, Repr

/-- What DECODE returns, `{cmdId, flags, length, payload}` (rules R59, R88, R89). -/
structure DecodedFrame where
  cmdId : Byte
  flags : Byte
  length : Half
  payload : List Byte
  deriving DecidableEq, Repr

/-- The `data` of a response, by operation (rules R35, R59); `empty` is no data: an error, CRC_CLEAR, CRC_STEP. -/
inductive ResponseData where
  | empty
  | byte (b : Byte)
  | bytes (bs : List Byte)
  | frame (f : DecodedFrame)
  deriving DecidableEq, Repr

/-- A response `{status, info, data}` (rule R61). -/
structure Response where
  status : Byte
  info : Nat
  data : ResponseData
  deriving DecidableEq, Repr

/-- What the environment does to the engine: it issues a request (rule R16), or resets the engine between requests or while one
is in progress (rule R140). -/
inductive PortEvent where
  | request (r : Request)
  | reset
  | resetDuring (r : Request)
  deriving DecidableEq, Repr

/-- The engine and its port.  `acc` and `params` are the whole of the engine (rule R31).  `inputs` and `responses` are the
model's own fields, not the engine's (rule R30 says no value is kept between requests): what the environment is still to do, in
order, and what the engine has returned so far, oldest first (rules R16, R44; notes/assumptions/3.md). -/
structure State where
  /-- `ACC`, 8 bits (rule R22). -/
  acc : Byte
  /-- `SUBST_TABLE` and `VERIFY_ON_DECODE`, constants of the instance (rules R7, R23, R27). -/
  params : Params
  /-- The request port: the environment's events not yet taken, the next one first. -/
  inputs : List PortEvent
  /-- The response port: the responses returned so far, the oldest first. -/
  responses : List Response
  deriving DecidableEq, Repr

/-- Why the machine stops with a fault: never.  "The engine has no trap mechanism: an error is a response" (rule R126), and
every request yields exactly one response and one next state (rule R17); no definition of the model raises one. -/
inductive Fault where
  deriving DecidableEq, Repr

/-- Why the model gives no meaning. -/
inductive Refusal where
  /-- Raised by `exec`'s arms alone, for an instruction that has no meaning yet (safe); no arm raises it now. -/
  | notModelled (mnemonic : String)
  deriving DecidableEq, Repr

/-- The state after reset (rule R141): ACC is 0x00; the table and the parameters are the instance's constants; the environment
has issued nothing and the engine has returned nothing. -/
def State.reset : State :=
  { acc := 0x00, params := Config.params, inputs := [], responses := [] }

end Sys2Proof.Machine
end

