-- ==== Sys2Proof/Machine/Flags.lean ====
section
/-! DEFINITION. The engine has no condition-code or status-flag register (rule R25); what a response reports in place of flags is
its status code (rule R120). -/

namespace Sys2Proof.Machine

/-- The 8-bit status values, rule R120. -/
def statusCode : ResultCode → Byte
  | .ok => 0x00
  | .errOp => 0x01
  | .errMarker => 0x02
  | .errShort => 0x03
  | .errTruncated => 0x04
  | .errCorrupt => 0x05
  | .errTooLong => 0x06
  | .errGeometry => 0x07
  | .errRowWidth => 0x08

end Sys2Proof.Machine
end

