-- ==== Sys2Proof/Machine/Ops.lean ====
section
/-! DEFINITION. The operations the meanings share: the pseudocode primitives of rule R13 (00_scope.md), the checksum function and
its step (rules R71, R72), returning and raising (rules R14, R121), and reset (rule R141). -/

namespace Sys2Proof.Machine

/-! ## Request data: MemRead and MemWrite (rule R13), little-endian (rule R36) -/

/-- `MemRead(addr, 1)`.  Rule R11: no rule reads outside the sequence, each checks the length first, so the 0 that
`getD` gives there is read by nothing. -/
def memRead1 (bs : List Byte) (addr : Nat) : Byte := bs.getD addr 0

/-- `MemRead(addr, 2)`: `zext_16(In[addr]) OR (zext_16(In[addr+1]) << 8)` (rules R36, R52). -/
def memRead2 (bs : List Byte) (addr : Nat) : Half :=
  (memRead1 bs addr).setWidth 16 ||| ((memRead1 bs (addr + 1)).setWidth 16 <<< 8)

/-- `MemRead(addr, n)` of a payload: the bytes at indices addr .. addr+n-1. -/
def memReadSeq (bs : List Byte) (addr n : Nat) : List Byte := (bs.drop addr).take n

/-- The two bytes `MemWrite(addr, 2, v)` writes: `v AND 0xFF`, then `(v >> 8) AND 0xFF` (rule R36). -/
def memWrite2 (v : Nat) : List Byte := [BitVec.ofNat 8 v, BitVec.ofNat 8 (v >>> 8)]

/-- `zeros(n)` (rule R11). -/
def zeros (n : Nat) : List Byte := List.replicate n 0x00

/-! ## The checksum -/

/-- `T[i]` (rule R12); an 8-bit index is always in range (rule R24). -/
def tableAt (table : Vector Byte 256) (i : Byte) : Byte := table[i.toNat]'(i.isLt)

/-- The loop body of rule R71: `acc <- T[(acc XOR b) AND 0xFF]`, the mask being the identity on bytes. -/
def crcUpdate (table : Vector Byte 256) (acc b : Byte) : Byte := tableAt table (acc ^^^ b)

/-- The loop of rule R71 from a given accumulator. -/
def crcFold (table : Vector Byte 256) (acc : Byte) (bs : List Byte) : Byte :=
  bs.foldl (crcUpdate table) acc

/-- `checksum(bs)` (rule R71), by an accumulator of its own that starts at 0x00 (rule R27). -/
def checksum (table : Vector Byte 256) (bs : List Byte) : Byte := crcFold table 0x00 bs

/-! ## Responses -/

/-- `OK(d)` (rule R14): status OK, info 0, data d. -/
def okResponse (d : ResponseData) : Response :=
  { status := statusCode .ok, info := 0, data := d }

/-- `raise E(info)` (rules R13, R121): status E, the info, no data.  It is the response alone: the state is untouched. -/
def raise (code : ResultCode) (info : Nat) : Response :=
  { status := statusCode code, info := info, data := .empty }

/-- Returning a response to the host, after those already returned (rule R44). -/
def State.respond (s : State) (r : Response) : State :=
  { s with responses := s.responses ++ [r] }

/-- `ACC <- v` (rule R13). -/
def State.writeAcc (s : State) (v : Byte) : State := { s with acc := v }

/-- The answer to a request whose `op` is illegal: ERR_OP with info = the `op` value, no state change (rule R60). -/
def answerIllegalOp (op : Byte) (s : State) : Host.Outcome State Fault Refusal :=
  .next (s.respond (raise .errOp op.toNat))

/-- Reset of the engine by its environment (rule R141): ACC <- 0x00, the constants unchanged. -/
def resetEngine (s : State) : State := s.writeAcc 0x00

end Sys2Proof.Machine
end

