-- ==== Sys2Proof/Machine/Checksum.lean ====
section
/-! DEFINITION. The operations of the checksum unit (40_checksum.md). -/

namespace Sys2Proof.Machine

/-- CRC_CLEAR, rule R70: `ACC <- 0x00; return OK([])`. -/
def execCrcClear (s : State) : Host.Outcome State Fault Refusal :=
  .next ((s.writeAcc 0x00).respond (okResponse .empty))

/-- CRC_STEP, rule R72: `ACC <- T[(ACC XOR b) AND 0xFF]; return OK([])`. -/
def execCrcStep (b : Byte) (s : State) : Host.Outcome State Fault Refusal :=
  .next ((s.writeAcc (crcUpdate s.params.substTable s.acc b)).respond (okResponse .empty))

/-- CRC_READ, rule R73: `return OK(ACC)`. -/
def execCrcRead (s : State) : Host.Outcome State Fault Refusal :=
  .next (s.respond (okResponse (.byte s.acc)))

/-- CHECKSUM, rule R74: `return OK(checksum(In))`, ACC neither read nor written. -/
def execChecksum (input : List Byte) (s : State) : Host.Outcome State Fault Refusal :=
  .next (s.respond (okResponse (.byte (checksum s.params.substTable input))))

end Sys2Proof.Machine
end

