-- ==== Sys2Proof/Machine/Operands.lean ====
section
/-! DEFINITION. What the operands of ENCODE, DECODE and PACK are read as: the emitted frame (rules R50, R85), the decoded frame
and the checks before it (rule R88), the packed image buffer and the checks before it (rule R100). -/

namespace Sys2Proof.Machine

/-! ## Frames -/

/-- The bytes of rule R85 in the order it writes them: markers, `cmdId`, reserved byte, length, payload, checksum of the payload
alone, terminator (layout of rule R50). -/
def frameBytes (table : Vector Byte 256) (cmdId : Byte) (payload : List Byte) : List Byte :=
  [Config.marker0, Config.marker1, cmdId, Config.reservedByte]
    ++ memWrite2 payload.length ++ payload ++ [checksum table payload, Config.terminator]

/-- ENCODE's response (rule R85). -/
def encodeFrame (p : Params) (cmdId : Byte) (payload : List Byte) : Response :=
  if payload.length > Config.maxPayload then raise .errTooLong payload.length
  else okResponse (.bytes (frameBytes p.substTable cmdId payload))

/-- The ERR_CORRUPT info of rule R88's verification, none where it passes or is off. -/
def trailerError (p : Params) (input : List Byte) (payload : List Byte) : Option Nat :=
  if p.verifyOnDecode then
    if input.length < 8 + payload.length then some 1
    else if memRead1 input (6 + payload.length) ≠ checksum p.substTable payload then some 2
    else if memRead1 input (7 + payload.length) ≠ Config.terminator then some 3
    else none
  else none

/-- DECODE's response (rule R88), its checks in the order of rule R124. -/
def decodeFrame (p : Params) (input : List Byte) : Response :=
  if input.length < 2 ∨ memRead1 input 0 ≠ Config.marker0 ∨ memRead1 input 1 ≠ Config.marker1 then
    raise .errMarker 0
  else if input.length < 6 then raise .errShort input.length
  else if input.length < 6 + (memRead2 input 4).toNat then
    raise .errTruncated (memRead2 input 4).toNat
  else
    match trailerError p input (memReadSeq input 6 (memRead2 input 4).toNat) with
    | some info => raise .errCorrupt info
    | none =>
      okResponse (.frame
        { cmdId := memRead1 input 2
          flags := memRead1 input 3
          length := memRead2 input 4
          payload := memReadSeq input 6 (memRead2 input 4).toNat })

/-! ## Image buffers -/

/-- `bool2bit` (rule R12). -/
def bool2bit (p : Bool) : Byte := if p then 1 else 0

/-- Byte j of a packed row: pixel 8j + k in bit k, k = 0 .. 7, LSB-first (rules R37, R56, R100). -/
def packByte (row : List Bool) (j : Nat) : Byte :=
  (List.range 8).foldl (fun byte k => byte ||| (bool2bit (row.getD (8 * j + k) false) <<< k)) 0

/-- A packed row: its `bytesPerRow` bytes (rule R100). -/
def packRow (bytesPerRow : Nat) (row : List Bool) : List Byte :=
  (List.range bytesPerRow).map (packByte row)

/-- The packed rows in input order, no reordering (rules R100, R103). -/
def packRows (bytesPerRow : Nat) (rows : List (List Bool)) : List Byte :=
  rows.flatMap (packRow bytesPerRow)

/-- The zero extension to a minimum length (rule R100). -/
def padTo (minimum : Nat) (out : List Byte) : List Byte :=
  if out.length < minimum then out ++ zeros (minimum - out.length) else out

/-- The index of the first row whose length is not `rowWidth` (rule R100, "lowest index first"). -/
def firstBadRow (rowWidth : Nat) (rows : List (List Bool)) : Option Nat :=
  rows.findIdx? (fun row => row.length != rowWidth)

/-- PACK's response (rule R100), its checks in the order of rule R124. -/
def packImage (rows : List (List Bool)) (rowWidth bytesPerRow minLines : Nat) : Response :=
  if rowWidth ≠ 8 * bytesPerRow then raise .errGeometry 0
  else
    match firstBadRow rowWidth rows with
    | some r => raise .errRowWidth r
    | none => okResponse (.bytes (padTo (minLines * bytesPerRow) (packRows bytesPerRow rows)))

end Sys2Proof.Machine
end

