-- ==== Sys2Proof/Machine/Codec.lean ====
section
/-! DEFINITION. The operations of the frame codec unit (41_frame_codec.md), and DECODE of the frames that the table's
`frame_header` rows identify (rule R64: "is decoded the same way"). -/

namespace Sys2Proof.Machine

/-- ENCODE, rule R85. -/
def execEncode (cmdId : Byte) (payload : List Byte) (s : State) : Host.Outcome State Fault Refusal :=
  .next (s.respond (encodeFrame s.params cmdId payload))

/-- DECODE, rule R88. -/
def execDecode (input : List Byte) (s : State) : Host.Outcome State Fault Refusal :=
  .next (s.respond (decodeFrame s.params input))

/-- DECODE of a get-status frame, `22 21 A1 flags ..` (rules R55, R64, R88). -/
def execFrameGetStatus (flags : Byte) (rest : List Byte) (s : State) : Host.Outcome State Fault Refusal :=
  .next (s.respond (decodeFrame s.params (frameInput .getStatus flags rest)))

/-- DECODE of a set-intensity frame, `22 21 A2 flags ..` (rules R55, R64, R88). -/
def execFrameSetIntensity (flags : Byte) (rest : List Byte) (s : State) : Host.Outcome State Fault Refusal :=
  .next (s.respond (decodeFrame s.params (frameInput .setIntensity flags rest)))

/-- DECODE of a print-request frame, `22 21 A9 flags ..` (rules R55, R64, R88). -/
def execFramePrintRequest (flags : Byte) (rest : List Byte) (s : State) : Host.Outcome State Fault Refusal :=
  .next (s.respond (decodeFrame s.params (frameInput .printRequest flags rest)))

/-- DECODE of a print-complete frame, `22 21 AA flags ..` (rules R55, R64, R88). -/
def execFramePrintComplete (flags : Byte) (rest : List Byte) (s : State) : Host.Outcome State Fault Refusal :=
  .next (s.respond (decodeFrame s.params (frameInput .printComplete flags rest)))

/-- DECODE of a flush-data frame, `22 21 AD flags ..` (rules R55, R64, R88). -/
def execFrameFlushData (flags : Byte) (rest : List Byte) (s : State) : Host.Outcome State Fault Refusal :=
  .next (s.respond (decodeFrame s.params (frameInput .flushData flags rest)))

end Sys2Proof.Machine
end

