-- ==== Sys2Proof/Machine/Packer.lean ====
section
/-! DEFINITION. The operation of the bitmap packer unit (42_bitmap_packer.md). -/

namespace Sys2Proof.Machine

/-- PACK, rule R100. -/
def execPack (rows : List (List Bool)) (rowWidth bytesPerRow minLines : Nat) (s : State) :
    Host.Outcome State Fault Refusal :=
  .next (s.respond (packImage rows rowWidth bytesPerRow minLines))

end Sys2Proof.Machine
end

