-- ==== Sys2Proof/Machine/Dispatch.lean ====
section
/-! DEFINITION. One arm per row of spec/opcode_table.json.  `exec` is the effect of an instruction already taken from the request
port: its write of ACC and its response. -/

namespace Sys2Proof.Machine

def exec (i : Instr) (s : State) : Host.Outcome State Fault Refusal :=
  match i with
  -- checksum unit (40_checksum.md)
  | .crcClear => Sys2Proof.Machine.execCrcClear s
  | .crcStep b => Sys2Proof.Machine.execCrcStep b s
  | .crcRead => Sys2Proof.Machine.execCrcRead s
  | .checksum input => Sys2Proof.Machine.execChecksum input s
  -- frame codec unit (41_frame_codec.md)
  | .encode cmdId payload => Sys2Proof.Machine.execEncode cmdId payload s
  | .decode input => Sys2Proof.Machine.execDecode input s
  -- bitmap packer unit (42_bitmap_packer.md)
  | .pack rows rowWidth bytesPerRow minLines => Sys2Proof.Machine.execPack rows rowWidth bytesPerRow minLines s
  -- frames the table names (30_encoding.md, rules R55 and R64)
  | .frameGetStatus flags rest => Sys2Proof.Machine.execFrameGetStatus flags rest s
  | .frameSetIntensity flags rest => Sys2Proof.Machine.execFrameSetIntensity flags rest s
  | .framePrintRequest flags rest => Sys2Proof.Machine.execFramePrintRequest flags rest s
  | .framePrintComplete flags rest => Sys2Proof.Machine.execFramePrintComplete flags rest s
  | .frameFlushData flags rest => Sys2Proof.Machine.execFrameFlushData flags rest s

end Sys2Proof.Machine
end

