-- ==== Sys2Proof/Machine/Port.lean ====
section
/-! DEFINITION. Taking one event of the environment from the port, whole (rules R16, R40, R140). -/

namespace Sys2Proof.Machine

/-- A request: the instruction it decodes to, or ERR_OP (rules R17, R60). -/
def takeRequest (r : Request) (s : State) : Host.Outcome State Fault Refusal :=
  match decode r with
  | .instr i => exec i s
  | .illegalOp op => answerIllegalOp op s

/-- An event: a request is answered; reset makes the reset state, and a request in progress when it occurs "produces no response
and has no effect beyond the reset state" (rule R140). -/
def takeEvent (e : PortEvent) (s : State) : Host.Outcome State Fault Refusal :=
  match e with
  | .request r => takeRequest r s
  | .reset => .next (resetEngine s)
  | .resetDuring _ => .next (resetEngine s)

/-- Nothing issued: the engine is "idle between requests, and idleness preserves ACC" (rule R132). -/
def idle (s : State) : Host.Outcome State Fault Refusal := .next s

/-- The port with the given events still to come. -/
def State.withInputs (s : State) (events : List PortEvent) : State := { s with inputs := events }

/-- The next event is taken from the front of the port. -/
def takeNext (s : State) : Host.Outcome State Fault Refusal :=
  match s.inputs with
  | [] => idle s
  | e :: rest => takeEvent e (s.withInputs rest)

/-- A request placed to be the next one taken. -/
def State.issueNext (s : State) (r : Request) : State := s.withInputs (.request r :: s.inputs)

end Sys2Proof.Machine
end

