-- ==== Sys2Proof/Machine/Step.lean ====
section
/-! DEFINITION. One step: one event of the environment taken whole, or an idle step.  The engine fetches no instructions and has
no pc (rule R21); its next instruction is the next request of its port. -/

namespace Sys2Proof.Machine

/-- One step of the engine. -/
def step (s : State) : Host.Outcome State Fault Refusal := takeNext s

/-- The state in which the next request taken is the table's word `w` (its operand bits above `nbits` zero). -/
def State.withFetchWord (s : State) (nbits w : Nat) : State := s.issueNext (tableRequest nbits w)

end Sys2Proof.Machine
end

