-- ==== Sys2Proof/Machine/Assembler.lean ====
section
/-! DEFINITION. The assembler of rules R62 and R63 (30_encoding.md): its lines as data, the requests each stands for (omitted PACK
operands take their defaults; a pseudo-instruction is expanded), and the reading of a line's text. -/

namespace Sys2Proof.Machine

/-- A line of rule R62, or a pseudo-instruction of rule R63.  A PACK operand that the line omits is `none`. -/
inductive AsmLine where
  | crcClear
  | crcStep (b : Byte)
  | crcRead
  | checksum (input : List Byte)
  | encode (cmdId : Byte) (payload : List Byte)
  | decode (input : List Byte)
  | pack (rows : List (List Bool)) (rowWidth bytesPerRow minLines : Option Nat)
  | frameGetStatus (payload : List Byte)
  | frameSetIntensity (i : Byte)
  | framePrintRequest (lines : Nat) (k mode : Byte)
  | frameFlush
  | checksumStream (bs : List Byte)
  deriving DecidableEq, Repr

/-- The operand a line omits takes its default (rules R7, R62). -/
def AsmLine.packInstr (rows : List (List Bool)) (rowWidth bytesPerRow minLines : Option Nat) : Instr :=
  .pack rows (rowWidth.getD Config.rowWidthDefault) (bytesPerRow.getD Config.bytesPerRowDefault)
    (minLines.getD Config.minLinesDefault)

/-- `checksum.stream` (rule R63): `crc.clear`, a `crc.step` for each byte, `crc.read`. -/
def AsmLine.streamInstrs (bs : List Byte) : List Instr :=
  .crcClear :: (bs.map Instr.crcStep ++ [.crcRead])

/-- The instructions a line stands for (rules R62, R63). -/
def AsmLine.instrs : AsmLine → List Instr
  | .crcClear => [.crcClear]
  | .crcStep b => [.crcStep b]
  | .crcRead => [.crcRead]
  | .checksum input => [.checksum input]
  | .encode cmdId payload => [.encode cmdId payload]
  | .decode input => [decodeInput input]
  | .pack rows rowWidth bytesPerRow minLines => [AsmLine.packInstr rows rowWidth bytesPerRow minLines]
  | .frameGetStatus payload => [.encode CommandId.getStatus.code payload]
  | .frameSetIntensity i => [.encode CommandId.setIntensity.code [i]]
  | .framePrintRequest lines k mode =>
    [.encode CommandId.printRequest.code [BitVec.ofNat 8 lines, BitVec.ofNat 8 (lines >>> 8), k, mode]]
  | .frameFlush => [.encode CommandId.flushData.code [0x00]]
  | .checksumStream bs => AsmLine.streamInstrs bs

/-- The requests a line stands for. -/
def AsmLine.requests (l : AsmLine) : List Request := l.instrs.map Sys2Proof.encode

/-! ## Reading a line's text -/

/-- The pieces of a line: words, quoted rows and punctuation. -/
inductive AsmToken where
  | word (cs : List Char)
  | text (cs : List Char)
  | lbrack
  | rbrack
  | lparen
  | rparen
  | comma
  | equals
  deriving DecidableEq, Repr

/-- A punctuation character's token. -/
def punctuation (c : Char) : Option AsmToken :=
  if c = '[' then some .lbrack
  else if c = ']' then some .rbrack
  else if c = '(' then some .lparen
  else if c = ')' then some .rparen
  else if c = ',' then some .comma
  else if c = '=' then some .equals
  else none

/-- The word gathered so far, its characters in reverse, put before the tokens after it. -/
def endWord (cur : List Char) (ts : List AsmToken) : List AsmToken :=
  match cur with
  | [] => ts
  | c :: cs => .word (c :: cs).reverse :: ts

/-- A line's tokens; character 34 is the double quote round a row, as 95_test_vectors.md writes rows. -/
def tokens (quoted : Bool) (cur : List Char) : List Char → Option (List AsmToken)
  | [] => if quoted then none else some (endWord cur [])
  | c :: cs =>
    if quoted then
      if c.toNat = 34 then (tokens false [] cs).map (fun ts => .text cur.reverse :: ts)
      else tokens true (c :: cur) cs
    else if c.toNat = 34 then (tokens true [] cs).map (endWord cur)
    else if c = ' ' then (tokens false [] cs).map (endWord cur)
    else
      match punctuation c with
      | some p => (tokens false [] cs).map (fun ts => endWord cur (p :: ts))
      | none => tokens false (c :: cur) cs

/-- A digit's value, hexadecimal ones included. -/
def digitValue (c : Char) : Option Nat :=
  if 48 ≤ c.toNat ∧ c.toNat ≤ 57 then some (c.toNat - 48)
  else if 65 ≤ c.toNat ∧ c.toNat ≤ 70 then some (c.toNat - 55)
  else if 97 ≤ c.toNat ∧ c.toNat ≤ 102 then some (c.toNat - 87)
  else none

/-- The number a run of digits writes in a base, most significant digit first. -/
def digitsValue (base acc : Nat) : List Char → Option Nat
  | [] => some acc
  | c :: cs =>
    match digitValue c with
    | some d => if d < base then digitsValue base (base * acc + d) cs else none
    | none => none

/-- A number: `0x` and hexadecimal digits (rule R10), or decimal digits. -/
def numberOf (cs : List Char) : Option Nat :=
  match cs with
  | [] => none
  | '0' :: 'x' :: d :: ds => digitsValue 16 0 (d :: ds)
  | c :: cs => digitsValue 10 0 (c :: cs)

/-- A number 0 .. 255. -/
def byteOf (cs : List Char) : Option Byte :=
  match numberOf cs with
  | some n => if n ≤ 255 then some (BitVec.ofNat 8 n) else none
  | none => none

/-- A row written as 0s and 1s, `1` = true (rule R62). -/
def bitsOf : List Char → Option (List Bool)
  | [] => some []
  | c :: cs =>
    if c = '1' then (bitsOf cs).map (fun row => true :: row)
    else if c = '0' then (bitsOf cs).map (fun row => false :: row)
    else none

/-- The bytes of a list after its first, up to its closing bracket. -/
def byteListRest : List AsmToken → Option (List Byte × List AsmToken)
  | .rbrack :: ts => some ([], ts)
  | .comma :: .word w :: ts =>
    match byteOf w, byteListRest ts with
    | some b, some (bs, ts') => some (b :: bs, ts')
    | _, _ => none
  | _ => none

/-- A byte sequence in square brackets (rule R62). -/
def byteList : List AsmToken → Option (List Byte × List AsmToken)
  | .lbrack :: .rbrack :: ts => some ([], ts)
  | .lbrack :: .word w :: ts =>
    match byteOf w, byteListRest ts with
    | some b, some (bs, ts') => some (b :: bs, ts')
    | _, _ => none
  | _ => none

/-- A byte sequence that ends the line. -/
def lastByteList (ts : List AsmToken) : Option (List Byte) :=
  match byteList ts with
  | some (bs, []) => some bs
  | _ => none

/-- A row: `fill(n, v)`, bits bare or in double quotes, or `[]` for the empty row. -/
def rowOf : List AsmToken → Option (List Bool × List AsmToken)
  | .word w :: .lparen :: .word n :: .comma :: .word v :: .rparen :: ts =>
    match numberOf n, bitsOf v with
    | some k, some [b] => if w = "fill".toList then some (List.replicate k b, ts) else none
    | _, _ => none
  | .word w :: ts => (bitsOf w).map (fun row => (row, ts))
  | .text w :: ts => (bitsOf w).map (fun row => (row, ts))
  | .lbrack :: .rbrack :: ts => some ([], ts)
  | _ => none

/-- The rows of a list after its first; the fuel is the number of tokens. -/
def rowListRest : Nat → List AsmToken → Option (List (List Bool) × List AsmToken)
  | _, .rbrack :: ts => some ([], ts)
  | fuel + 1, .comma :: ts =>
    match rowOf ts with
    | some (row, ts') => (rowListRest fuel ts').map (fun p => (row :: p.1, p.2))
    | none => none
  | _, _ => none

/-- `<rows>`: a list of rows, or `rep(k, <row>)` (rule R62). -/
def rowList (ts : List AsmToken) : Option (List (List Bool) × List AsmToken) :=
  match ts with
  | .lbrack :: .rbrack :: ts => some ([], ts)
  | .lbrack :: ts =>
    match rowOf ts with
    | some (row, ts') => (rowListRest ts'.length ts').map (fun p => (row :: p.1, p.2))
    | none => none
  | .word w :: .lparen :: .word k :: .comma :: ts =>
    match numberOf k, rowOf ts with
    | some n, some (row, .rparen :: ts') =>
      if w = "rep".toList then some (List.replicate n row, ts') else none
    | _, _ => none
  | _ => none

/-- An optional operand `, name=<n>` of PACK: its value, `none` where the line omits it; no answer where it is no number. -/
def packOperand (name : String) (ts : List AsmToken) : Option (Option Nat × List AsmToken) :=
  match ts with
  | .comma :: .word w :: .equals :: .word n :: ts' =>
    if w = name.toList then (numberOf n).map (fun v => (some v, ts')) else some (none, ts)
  | _ => some (none, ts)

/-- The operands of `pack` (rule R62). -/
def packLine (ts : List AsmToken) : Option AsmLine :=
  match rowList ts with
  | some (rows, ts1) =>
    match packOperand "rowWidth" ts1 with
    | some (w, ts2) =>
      match packOperand "bytesPerRow" ts2 with
      | some (b, ts3) =>
        match packOperand "minLines" ts3 with
        | some (m, []) => some (.pack rows w b m)
        | _ => none
      | none => none
    | none => none
  | none => none

/-- A line that has a mnemonic and no operand. -/
def plainLine (w : List Char) : Option AsmLine :=
  if w = "crc.clear".toList then some .crcClear
  else if w = "crc.read".toList then some .crcRead
  else if w = "frame.flush".toList then some .frameFlush
  else none

/-- A line whose operand is one byte. -/
def byteLine (w : List Char) (b : Byte) : Option AsmLine :=
  if w = "crc.step".toList then some (.crcStep b)
  else if w = "frame.set_intensity".toList then some (.frameSetIntensity b)
  else none

/-- A line whose operand is one byte sequence. -/
def bytesLine (w : List Char) (bs : List Byte) : Option AsmLine :=
  if w = "checksum".toList then some (.checksum bs)
  else if w = "decode".toList then some (.decode bs)
  else if w = "frame.get_status".toList then some (.frameGetStatus bs)
  else if w = "checksum.stream".toList then some (.checksumStream bs)
  else none

/-- `encode <cmdId>, [<byte>, ...]` after its mnemonic. -/
def encodeLine (c : List Char) (ts : List AsmToken) : Option AsmLine :=
  match byteOf c, lastByteList ts with
  | some cmdId, some payload => some (.encode cmdId payload)
  | _, _ => none

/-- `frame.print_request <lines>, <k>, <mode>`, 0 ≤ lines ≤ 65535 (rule R63). -/
def printRequestLine (lines k mode : List Char) : Option AsmLine :=
  match numberOf lines, byteOf k, byteOf mode with
  | some n, some kb, some mb => if n ≤ 65535 then some (.framePrintRequest n kb mb) else none
  | _, _, _ => none

/-- A line from its tokens. -/
def lineOf (ts : List AsmToken) : Option AsmLine :=
  match ts with
  | [.word w] => plainLine w
  | [.word w, .word b] =>
    match byteOf b with
    | some v => byteLine w v
    | none => none
  | [.word w, .word lines, .comma, .word k, .comma, .word mode] =>
    if w = "frame.print_request".toList then printRequestLine lines k mode else none
  | .word w :: .word c :: .comma :: ts =>
    if w = "encode".toList then encodeLine c ts else none
  | .word w :: ts =>
    if w = "pack".toList then packLine ts
    else
      match lastByteList ts with
      | some bs => bytesLine w bs
      | none => none
  | _ => none

/-- A line's text read (rules R62, R63); nothing where the text is no line of the syntax. -/
def parseLine (text : String) : Option AsmLine :=
  match tokens false [] text.toList with
  | some ts => lineOf ts
  | none => none

/-- The requests a line's text stands for. -/
def assemble (text : String) : Option (List Request) := (parseLine text).map AsmLine.requests

end Sys2Proof.Machine
end

