-- ==== Sys2Proof/Machine/AsmText.lean ====
section
/-! DEFINITION. Writing an assembler line as rule R62 (30_encoding.md) writes it, for the statement that the reader of
Machine/Assembler.lean reads every line: bytes as `0xNN`, naturals in decimal, rows as 0s and 1s (log entry 13 names the details
the rule leaves open). -/

namespace Sys2Proof.Machine

/-- A digit, hexadecimal ones in capitals. -/
def digitChar (d : Nat) : Char := if d < 10 then Char.ofNat (48 + d) else Char.ofNat (55 + d)

/-- A natural in decimal. -/
def decimalText (n : Nat) : List Char := if n = 0 then ['0'] else (Nat.digits 10 n).reverse.map digitChar

/-- A byte as `0xNN` (rule R10). -/
def byteText (b : Byte) : List Char := ['0', 'x', digitChar (b.toNat / 16), digitChar (b.toNat % 16)]

/-- A pixel, `1` = true (rule R62). -/
def bitText (p : Bool) : Char := if p then '1' else '0'

/-- A list in square brackets, its elements separated by commas. -/
def listTokens (elements : List (List AsmToken)) : List AsmToken :=
  match elements with
  | [] => [.lbrack, .rbrack]
  | e :: es => .lbrack :: (e ++ es.flatMap (fun x => .comma :: x) ++ [.rbrack])

/-- A byte sequence. -/
def bytesTokens (bs : List Byte) : List AsmToken := listTokens (bs.map fun b => [.word (byteText b)])

/-- A row: its bits, or `[]` where it has none. -/
def rowTokens (row : List Bool) : List AsmToken :=
  match row with
  | [] => [.lbrack, .rbrack]
  | p :: ps => [.word ((p :: ps).map bitText)]

/-- The forms a row is written in (rule R62): its bits bare, its bits in double quotes as 95_test_vectors.md writes them, or
`fill(n, v)`. -/
inductive RowForm where
  | bits (row : List Bool)
  | quoted (row : List Bool)
  | fill (n : Nat) (v : Bool)
  deriving DecidableEq, Repr

/-- The row a form writes. -/
def RowForm.row : RowForm → List Bool
  | .bits row => row
  | .quoted row => row
  | .fill n v => List.replicate n v

/-- A row form as tokens. -/
def RowForm.tokens : RowForm → List AsmToken
  | .bits row => rowTokens row
  | .quoted row => [.text (row.map bitText)]
  | .fill n v =>
    [.word "fill".toList, .lparen, .word (decimalText n), .comma, .word [bitText v], .rparen]

/-- The forms `<rows>` is written in (rule R62): a list of rows, or `rep(k, <row>)`. -/
inductive RowsForm where
  | list (rows : List RowForm)
  | rep (k : Nat) (row : RowForm)
  deriving DecidableEq, Repr

/-- The rows a form writes. -/
def RowsForm.rows : RowsForm → List (List Bool)
  | .list rows => rows.map RowForm.row
  | .rep k row => List.replicate k row.row

/-- A form of `<rows>` as tokens. -/
def RowsForm.tokens : RowsForm → List AsmToken
  | .list rows => listTokens (rows.map RowForm.tokens)
  | .rep k row =>
    .word "rep".toList :: .lparen :: .word (decimalText k) :: .comma :: (row.tokens ++ [.rparen])

/-- An operand `, name=<n>` of PACK, nothing where it is omitted. -/
def packOperandTokens (name : String) (v : Option Nat) : List AsmToken :=
  match v with
  | none => []
  | some n => [.comma, .word name.toList, .equals, .word (decimalText n)]

/-- PACK's three optional operands. -/
def packOperandsTokens (rowWidth bytesPerRow minLines : Option Nat) : List AsmToken :=
  packOperandTokens "rowWidth" rowWidth ++ packOperandTokens "bytesPerRow" bytesPerRow
    ++ packOperandTokens "minLines" minLines

/-- A line's mnemonic (rules R62, R63). -/
def AsmLine.mnemonic : AsmLine → String
  | .crcClear => "crc.clear"
  | .crcStep _ => "crc.step"
  | .crcRead => "crc.read"
  | .checksum _ => "checksum"
  | .encode _ _ => "encode"
  | .decode _ => "decode"
  | .pack _ _ _ _ => "pack"
  | .frameGetStatus _ => "frame.get_status"
  | .frameSetIntensity _ => "frame.set_intensity"
  | .framePrintRequest _ _ _ => "frame.print_request"
  | .frameFlush => "frame.flush"
  | .checksumStream _ => "checksum.stream"

/-- A line's operands. -/
def AsmLine.operandTokens : AsmLine → List AsmToken
  | .crcClear => []
  | .crcStep b => [.word (byteText b)]
  | .crcRead => []
  | .checksum input => bytesTokens input
  | .encode cmdId payload => .word (byteText cmdId) :: .comma :: bytesTokens payload
  | .decode input => bytesTokens input
  | .pack rows rowWidth bytesPerRow minLines =>
    RowsForm.tokens (.list (rows.map .bits)) ++ packOperandsTokens rowWidth bytesPerRow minLines
  | .frameGetStatus payload => bytesTokens payload
  | .frameSetIntensity i => [.word (byteText i)]
  | .framePrintRequest lines k mode =>
    [.word (decimalText lines), .comma, .word (byteText k), .comma, .word (byteText mode)]
  | .frameFlush => []
  | .checksumStream bs => bytesTokens bs

/-- The characters of a token; a space follows a comma, character 34 is the double quote. -/
def AsmToken.chars : AsmToken → List Char
  | .word cs => cs
  | .text cs => Char.ofNat 34 :: (cs ++ [Char.ofNat 34])
  | .lbrack => ['[']
  | .rbrack => [']']
  | .lparen => ['(']
  | .rparen => [')']
  | .comma => [',', ' ']
  | .equals => ['=']

/-- A mnemonic and its operands as the characters of a line, a space between the two. -/
def lineChars (mnemonic : String) (operands : List AsmToken) : List Char :=
  match operands with
  | [] => mnemonic.toList
  | t :: ts => mnemonic.toList ++ ' ' :: (t :: ts).flatMap AsmToken.chars

/-- The characters of a line. -/
def AsmLine.chars (l : AsmLine) : List Char := lineChars l.mnemonic l.operandTokens

/-- The bound rule R63 puts on a line's operands: 0 ≤ lines ≤ 65535 in `frame.print_request`. -/
def AsmLine.wf : AsmLine → Bool
  | .framePrintRequest lines _ _ => decide (lines ≤ 65535)
  | _ => true

end Sys2Proof.Machine
end

