-- ==== Sys2Proof/Safety.lean ====
section
/-! DEFINITION. The terms claims about runs use: completing, the form of a response, the invariant of the returned responses. -/

namespace Sys2Proof.Machine

/-- The engine answers a next state: it neither faults nor refuses. -/
def Completes (s : State) : Prop := ∃ t, step s = .next t

/-- k steps, stopping at the first fault or refusal: `Host.Core.run` of this machine (`runSteps_eq_run`, Laws/Step.lean). -/
def runSteps : Nat → State → Host.Outcome State Fault Refusal
  | 0, s => .next s
  | k + 1, s =>
    match step s with
    | .next t => runSteps k t
    | .fault r => .fault r
    | .refused r => .refused r

/-- A run of any length completes. -/
def RunsForever (s : State) : Prop := ∀ k, ∃ t, runSteps k s = .next t

/-- The instruction completes with this response, and changes nothing of the state but the list of responses returned. -/
def Answers (i : Instr) (s : State) (status : Byte) (info : Nat) (data : ResponseData) : Prop :=
  exec i s =
    .next { s with responses := s.responses ++ [{ status := status, info := info, data := data }] }

/-- The events that issue a list of requests, in order. -/
def issue (rs : List Request) : List PortEvent := rs.map PortEvent.request

/-- The form of a response (rules R61, R120, R121): a status of rule R120, info 0 with OK, no data with an error, and in a
decoded frame as many payload bytes as its length field says (rule R35). -/
def Response.wf (r : Response) : Bool :=
  decide (r.status.toNat ≤ 8)
    && (if r.status = 0x00 then decide (r.info = 0) else decide (r.data = .empty))
    && (match r.data with
      | .frame f => decide (f.payload.length = f.length.toNat)
      | _ => true)

/-- Every response returned so far has the form of rule R120. -/
def State.responsesWf (s : State) : Bool := s.responses.all Response.wf

/-- One bit of a CRC-8 division, the most significant bit first: shift, and subtract the generator where a 1 falls out. -/
def generatorBit (g r : Byte) : Byte := if r.msb then (r <<< 1) ^^^ g else r <<< 1

/-- The same with the least significant bit first (a reflected CRC). -/
def reflectedBit (g r : Byte) : Byte := if r.getLsbD 0 then (r >>> 1) ^^^ g else r >>> 1

/-- The CRC register after shifting the byte i through the generator from a zero register, bit by bit (40_checksum.md section 3);
for hypotheses on the table only. -/
def generatorByte (shiftBit : Byte → Byte → Byte) (g i : Byte) : Byte :=
  (List.range 8).foldl (fun r _ => shiftBit g r) i

/-- The table is a CRC-8 table of the generator g, in either bit order (91_not_in_source.md N1: the order is not given). -/
def IsGeneratorTable (table : Vector Byte 256) (g : Byte) : Prop :=
  (∀ i, tableAt table i = generatorByte generatorBit g i)
    ∨ ∀ i, tableAt table i = generatorByte reflectedBit g i

end Sys2Proof.Machine
end

