-- ==== Sys2Proof/WellFormed.lean ====
section
/-! DEFINITION. Which instructions are the table's own reading of a request.  The operands of rule R59 are typed and each
accepts every value of its type (an over-long ENCODE payload and a bad PACK geometry are requests the engine answers with an
error), so the one check is that a DECODE request whose input matches a `frame_header` row is named by that row (rule R64). -/

namespace Sys2Proof

/-- An instruction as the decoder names it. -/
def WellFormed : Instr → Bool
  | .crcClear => true
  | .crcStep _ => true
  | .crcRead => true
  | .checksum _ => true
  | .encode _ _ => true
  | .decode input => (frameHeaderOf input).isNone
  | .pack _ _ _ _ => true
  | .frameGetStatus _ _ => true
  | .frameSetIntensity _ _ => true
  | .framePrintRequest _ _ => true
  | .framePrintComplete _ _ => true
  | .frameFlushData _ _ => true

end Sys2Proof
end

