-- ==== Sys2Proof/Certificates/Slice0/Obligations.lean ====
section
/-! DEFINITION. The statements for the provers.  Statuses, codes and bytes stand as the literals of the spec, not by the model's
names for them; `Answers i s status info data` (Safety.lean) says that the instruction completes with that response and changes
nothing of the state but the list of responses. -/

open Sys2Proof Sys2Proof.Machine

/-! ## The checksum unit -/

/-- Rule R70: CRC_CLEAR has op 0x01 and no operands, writes 0x00 to ACC in any state and answers OK with no data. -/
def Obligations.CrcClearZeroesAcc : Prop :=
  ∀ s : State,
    decode { op := 0x01 } = .instr .crcClear
      ∧ exec .crcClear s
          = .next { s with acc := 0x00, responses := s.responses ++ [⟨0x00, 0, .empty⟩] }

/-- Rule R72: CRC_STEP has op 0x02 and operand b, writes `T[(ACC XOR b) AND 0xFF]` to ACC and answers OK with no data; a run of
steps from ACC = 0x00 over bs leaves ACC = checksum(bs). -/
def Obligations.CrcStepFoldsOneByte : Prop :=
  (∀ (s : State) (b : Byte),
    decode { op := 0x02, operands := { b := b } } = .instr (.crcStep b)
      ∧ exec (.crcStep b) s
          = .next { s with
              acc := tableAt s.params.substTable ((s.acc ^^^ b) &&& 0xFF)
              responses := s.responses ++ [⟨0x00, 0, .empty⟩] })
    ∧ ∀ (s : State) (bs : List Byte) (rest : List PortEvent), s.acc = 0x00 →
        s.inputs = issue (bs.map fun b => encode (.crcStep b)) ++ rest →
        ∃ t, runSteps bs.length s = .next t
          ∧ t.acc = checksum s.params.substTable bs ∧ t.inputs = rest

/-- Rule R73: CRC_READ has op 0x03 and no operands, returns ACC as one byte and changes nothing; after reset it returns 0x00. -/
def Obligations.CrcReadReturnsAcc : Prop :=
  decode { op := 0x03 } = .instr .crcRead
    ∧ (∀ s : State, Answers .crcRead s 0x00 0 (.byte s.acc))
    ∧ Answers .crcRead State.reset 0x00 0 (.byte 0x00)

/-- Rules R71 and R74: CHECKSUM has op 0x10 and operand In, returns the fold of `acc <- T[(acc XOR b) AND 0xFF]` over In from
0x00, and neither reads nor writes ACC (the result does not mention it); `[]` gives 0x00 and `[b]` gives `T[b]`. -/
def Obligations.ChecksumReturnsTheFold : Prop :=
  ∀ (s : State) (bs : List Byte),
    decode { op := 0x10, operands := { input := bs } } = .instr (.checksum bs)
      ∧ Answers (.checksum bs) s 0x00 0
          (.byte ((bs.foldl (fun acc b => tableAt s.params.substTable ((acc ^^^ b) &&& 0xFF)) 0x00) &&& 0xFF))
      ∧ Answers (.checksum []) s 0x00 0 (.byte 0x00)
      ∧ ∀ b, Answers (.checksum [b]) s 0x00 0 (.byte (tableAt s.params.substTable b))

/-- The stream law of 40_checksum.md section 3: `crc.clear`, a `crc.step` for each byte of bs, `crc.read`, issued in that order in
any state, end with ACC = checksum(bs) and checksum(bs) returned last; without the `crc.clear` the fold goes on from the ACC
before the first step. -/
def Obligations.ByteSerialChecksumEqualsChecksum : Prop :=
  ∀ (s : State) (bs : List Byte) (rest : List PortEvent),
    (s.inputs = issue ((Instr.crcClear :: (bs.map Instr.crcStep ++ [Instr.crcRead])).map encode) ++ rest →
      runSteps (bs.length + 2) s
        = .next
            { acc := checksum s.params.substTable bs
              params := s.params
              inputs := rest
              responses := s.responses ++ List.replicate (bs.length + 1) ⟨0x00, 0, .empty⟩
                ++ [⟨0x00, 0, .byte (checksum s.params.substTable bs)⟩] })
      ∧ (s.inputs = issue ((bs.map Instr.crcStep ++ [Instr.crcRead]).map encode) ++ rest →
          runSteps (bs.length + 1) s
            = .next
                { acc := bs.foldl (fun a b => tableAt s.params.substTable (a ^^^ b)) s.acc
                  params := s.params
                  inputs := rest
                  responses := s.responses ++ List.replicate bs.length ⟨0x00, 0, .empty⟩
                    ++ [⟨0x00, 0,
                        .byte (bs.foldl (fun a b => tableAt s.params.substTable (a ^^^ b)) s.acc)⟩] })

/-- 40_checksum.md section 3: a checksum of two pieces carries the accumulator from the first to the second. -/
def Obligations.ChecksumInPieces : Prop :=
  ∀ (table : Vector Byte 256) (xs ys : List Byte) (b0 b1 : Byte),
    checksum table [b0, b1] = tableAt table (tableAt table b0 ^^^ b1)
      ∧ checksum table (xs ++ ys)
          = ys.foldl (fun a b => tableAt table (a ^^^ b)) (checksum table xs)

/-- 40_checksum.md section 3 and 93_implementation_defined.md I2 (general knowledge there, so hypotheses on the table here): with
a table that maps 0 to 0 and XOR to XOR, an all-zero sequence has checksum 0x00 and the checksum of the XOR of two sequences of
one length is the XOR of their checksums. -/
def Obligations.LinearTableGivesLinearChecksum : Prop :=
  ∀ (s : State), tableAt s.params.substTable 0x00 = 0x00 →
    (∀ a b, tableAt s.params.substTable (a ^^^ b)
      = tableAt s.params.substTable a ^^^ tableAt s.params.substTable b) →
    (∀ n, Answers (.checksum (List.replicate n 0x00)) s 0x00 0 (.byte 0x00))
      ∧ ∀ xs ys : List Byte, xs.length = ys.length →
          Answers (.checksum (List.zipWith (· ^^^ ·) xs ys)) s 0x00 0
            (.byte (checksum s.params.substTable xs ^^^ checksum s.params.substTable ys))

/-- 40_checksum.md section 3 (general knowledge there, so a hypothesis here): if the table is the CRC-8 table of some generator g,
bytes shifted from a zero register with the most or with the least significant bit first, then CHECKSUM of an all-zero sequence
returns 0x00, and CHECKSUM of the XOR of two sequences of one length returns the XOR of what it returns for each. -/
def Obligations.GeneratorTableGivesLinearChecksum : Prop :=
  ∀ (s : State) (g : Byte), IsGeneratorTable s.params.substTable g →
    (∀ n, Answers (.checksum (List.replicate n 0x00)) s 0x00 0 (.byte 0x00))
      ∧ ∀ xs ys : List Byte, xs.length = ys.length →
          ∃ a b : Byte, Answers (.checksum xs) s 0x00 0 (.byte a) ∧ Answers (.checksum ys) s 0x00 0 (.byte b)
            ∧ Answers (.checksum (List.zipWith (· ^^^ ·) xs ys)) s 0x00 0 (.byte (a ^^^ b))

/-- Rule R23: an 8-bit index always reads an entry of the 256-entry table, and no event (a request of any kind, reset, an
abandoned request), over a run of any length, changes an entry. -/
def Obligations.TableIsReadOnly : Prop :=
  ∀ (k : Nat) (s t : State), runSteps k s = .next t →
    ∀ i : Byte, t.params.substTable[i.toNat]? = some (tableAt s.params.substTable i)

/-! ## The frame codec: ENCODE -/

/-- Rule R85: ENCODE has op 0x20 and operands cmdId and P; it answers with the markers, cmdId, the reserved byte, the length low
byte first, P, the checksum of P and the terminator; with more than 65535 payload bytes it answers ERR_TOO_LONG, info len(P). -/
def Obligations.EncodeEmitsTheFrame : Prop :=
  ∀ (s : State) (c : Byte) (payload : List Byte),
    decode { op := 0x20, operands := { cmdId := c, payload := payload } } = .instr (.encode c payload)
      ∧ (payload.length ≤ 65535 →
          Answers (.encode c payload) s 0x00 0
            (.bytes ([0x22, 0x21, c, 0x00, BitVec.ofNat 8 (payload.length % 256),
                BitVec.ofNat 8 (payload.length / 256)]
              ++ payload ++ [checksum s.params.substTable payload, 0xFF])))
      ∧ (65535 < payload.length → Answers (.encode c payload) s 0x06 payload.length .empty)
      ∧ Answers (.encode c []) s 0x00 0 (.bytes [0x22, 0x21, c, 0x00, 0x00, 0x00, 0x00, 0xFF])

/-- Rules R50, R51 and R86: of every frame ENCODE returns, the length is 8 + n (8 .. 65543), bytes 0, 1 and 7 + n are the markers and
the terminator, the length field is n, bytes 6 .. 5 + n are the payload unchanged and byte 6 + n is its checksum. -/
def Obligations.EncodedFrameKeepsItsForm : Prop :=
  ∀ (s : State) (c : Byte) (payload out : List Byte),
    Answers (.encode c payload) s 0x00 0 (.bytes out) →
      out.length = 8 + payload.length ∧ 8 ≤ out.length ∧ out.length ≤ 65543
        ∧ out[0]? = some 0x22 ∧ out[1]? = some 0x21 ∧ out[7 + payload.length]? = some 0xFF
        ∧ (∃ lo hi : Byte, out[4]? = some lo ∧ out[5]? = some hi
            ∧ lo.toNat + 256 * hi.toNat = payload.length)
        ∧ (∀ i, i < payload.length → out[6 + i]? = payload[i]?)
        ∧ out[6 + payload.length]? = some (checksum s.params.substTable payload)

/-- 41_frame_codec.md section 1: what ENCODE returns depends on cmdId, the payload and the constants alone (two states that differ
in ACC and in history get the same frame), and two frames that differ only in cmdId carry the same checksum byte. -/
def Obligations.EncodeIgnoresAccAndHeader : Prop :=
  ∀ (s u : State) (c d : Byte) (payload : List Byte), s.params = u.params → payload.length ≤ 65535 →
    ∃ out other : List Byte,
      Answers (.encode c payload) s 0x00 0 (.bytes out)
        ∧ Answers (.encode c payload) u 0x00 0 (.bytes out)
        ∧ Answers (.encode d payload) u 0x00 0 (.bytes other)
        ∧ out[6 + payload.length]? = some (checksum s.params.substTable payload)
        ∧ other[6 + payload.length]? = out[6 + payload.length]?

/-! ## The frame codec: DECODE -/

/-- Rule R88: DECODE has op 0x21 and operand In, and its answer to every input, in the order the checks stand. -/
def Obligations.DecodeAnswersEveryInput : Prop :=
  ∀ s : State,
    (∀ input : List Byte, ∃ i, decode { op := 0x21, operands := { input := input } } = .instr i
        ∧ exec i s = exec (.decode input) s)
      ∧ (∀ input, (∀ rest, input ≠ 0x22 :: 0x21 :: rest) → Answers (.decode input) s 0x02 0 .empty)
      ∧ (∀ rest : List Byte, rest.length < 4 →
          Answers (.decode (0x22 :: 0x21 :: rest)) s 0x03 (2 + rest.length) .empty)
      ∧ (∀ (c flags lo hi : Byte) (rest : List Byte), rest.length < lo.toNat + 256 * hi.toNat →
          Answers (.decode (0x22 :: 0x21 :: c :: flags :: lo :: hi :: rest)) s 0x04
            (lo.toNat + 256 * hi.toNat) .empty)
      ∧ ∀ (c flags lo hi : Byte) (payload more : List Byte),
          payload.length = lo.toNat + 256 * hi.toNat →
          (s.params.verifyOnDecode = false →
            Answers (.decode (0x22 :: 0x21 :: c :: flags :: lo :: hi :: (payload ++ more))) s 0x00 0
              (.frame ⟨c, flags, BitVec.ofNat 16 payload.length, payload⟩))
          ∧ (s.params.verifyOnDecode = true → more.length < 2 →
              Answers (.decode (0x22 :: 0x21 :: c :: flags :: lo :: hi :: (payload ++ more))) s 0x05 1 .empty)
          ∧ ∀ (k e : Byte) (after : List Byte), s.params.verifyOnDecode = true → more = k :: e :: after →
              (k ≠ checksum s.params.substTable payload →
                Answers (.decode (0x22 :: 0x21 :: c :: flags :: lo :: hi :: (payload ++ more))) s
                  0x05 2 .empty)
              ∧ (k = checksum s.params.substTable payload → e ≠ 0xFF →
                  Answers (.decode (0x22 :: 0x21 :: c :: flags :: lo :: hi :: (payload ++ more))) s
                    0x05 3 .empty)
              ∧ (k = checksum s.params.substTable payload → e = 0xFF →
                  Answers (.decode (0x22 :: 0x21 :: c :: flags :: lo :: hi :: (payload ++ more))) s 0x00 0
                    (.frame ⟨c, flags, BitVec.ofNat 16 payload.length, payload⟩))

/-- Rule R93: decoding what ENCODE returned gives back cmdId and the payload, with flags 0x00 and the payload's length, for every
cmdId, every payload of at most 65535 bytes, every table and both decode modes; the DECODE request is taken by a step of any later
state of the instance. -/
def Obligations.DecodeRecoversWhatEncodeWrote : Prop :=
  ∀ (s u : State) (c : Byte) (payload : List Byte) (rest : List PortEvent),
    payload.length ≤ 65535 → u.params = s.params →
    ∃ (out : List Byte) (n : Half),
      Answers (.encode c payload) s 0x00 0 (.bytes out) ∧ n.toNat = payload.length
        ∧ step { u with inputs := .request { op := 0x21, operands := { input := out } } :: rest }
            = .next { u with
                inputs := rest
                responses := u.responses ++ [⟨0x00, 0, .frame ⟨c, 0x00, n, payload⟩⟩] }

/-- 41_frame_codec.md section 2: bytes after the frame are ignored.  An input that decodes still decodes to the same frame with
anything appended (a second frame is lost), and without verification the bytes from index 6 + length on may be absent. -/
def Obligations.BytesAfterTheFrameAreIgnored : Prop :=
  ∀ (s : State) (input extra : List Byte) (f : DecodedFrame),
    Answers (.decode input) s 0x00 0 (.frame f) →
      Answers (.decode (input ++ extra)) s 0x00 0 (.frame f)
        ∧ (s.params.verifyOnDecode = false →
            Answers (.decode (input.take (6 + f.length.toNat))) s 0x00 0 (.frame f))
        ∧ (s.params.verifyOnDecode = true →
            Answers (.decode (input.take (8 + f.length.toNat))) s 0x00 0 (.frame f))

/-- 41_frame_codec.md section 2: with verification on, a frame DECODE accepts satisfies the frame invariant over bytes
0 .. 7 + length, except for byte 3. -/
def Obligations.VerifiedFrameSatisfiesTheInvariant : Prop :=
  ∀ (s : State) (input : List Byte) (f : DecodedFrame), s.params.verifyOnDecode = true →
    Answers (.decode input) s 0x00 0 (.frame f) →
      ∃ lo hi : Byte, lo.toNat + 256 * hi.toNat = f.payload.length ∧ f.length.toNat = f.payload.length
        ∧ input.take (8 + f.payload.length)
            = [0x22, 0x21, f.cmdId, f.flags, lo, hi] ++ f.payload
              ++ [checksum s.params.substTable f.payload, 0xFF]

/-- 41_frame_codec.md section 3: encoding a decoded frame gives the input back exactly where the input is a frame ENCODE
produces; and DECODE is not injective: without verification the two bytes after the payload do not matter. -/
def Obligations.ReencodingGivesBackEncodedFramesOnly : Prop :=
  (∀ (s : State) (input : List Byte) (f : DecodedFrame),
    Answers (.decode input) s 0x00 0 (.frame f) →
      (Answers (.encode f.cmdId f.payload) s 0x00 0 (.bytes input)
        ↔ ∃ (c : Byte) (payload : List Byte), Answers (.encode c payload) s 0x00 0 (.bytes input)))
    ∧ ∀ (s : State) (c flags lo hi k e k' e' : Byte) (payload : List Byte),
        s.params.verifyOnDecode = false → payload.length = lo.toNat + 256 * hi.toNat →
        exec (.decode ([0x22, 0x21, c, flags, lo, hi] ++ payload ++ [k, e])) s
          = exec (.decode ([0x22, 0x21, c, flags, lo, hi] ++ payload ++ [k', e'])) s

/-- 70_reset_and_hazards.md section 3: the checksum does not cover the header.  A changed command identifier or byte 3 goes
undetected even with verification on: the changed input decodes to the changed fields. -/
def Obligations.HeaderIsNotCoveredByVerification : Prop :=
  ∀ (s : State) (c flags d flags' : Byte) (rest : List Byte) (f : DecodedFrame),
    Answers (.decode (0x22 :: 0x21 :: c :: flags :: rest)) s 0x00 0 (.frame f) →
      Answers (.decode (0x22 :: 0x21 :: d :: flags' :: rest)) s 0x00 0
        (.frame { f with cmdId := d, flags := flags' })

/-- Rule R36: the length field is little-endian, both ways: what MemRead reads is byte 4 plus 256 times byte 5, and a length in
0 .. 65535 is written low byte first, so that it reads back. -/
def Obligations.LengthFieldIsLittleEndian : Prop :=
  (∀ (b0 b1 b2 b3 lo hi : Byte) (rest : List Byte),
    (memRead2 (b0 :: b1 :: b2 :: b3 :: lo :: hi :: rest) 4).toNat = lo.toNat + 256 * hi.toNat)
    ∧ ∀ n, n ≤ 65535 →
        memWrite2 n = [BitVec.ofNat 8 n &&& 0xFF, BitVec.ofNat 8 (n >>> 8) &&& 0xFF]
          ∧ (memRead2 (memWrite2 n) 0).toNat = n

/-! ## Frames the table names -/

/-- 30_encoding.md section 6: frames are decoded the same way whether a `frame_header` row matches them or not, so a row's instruction
does what DECODE of the same bytes does.  That a DECODE request whose input has a row's top 24 bits decodes to an instruction of
that row's own, whatever byte 3 is, and every other one to DECODE, is the model's choice of names (notes/assumptions/5.md, DEDUCED:
by the spec a row "is not a separate operation of the engine"). -/
def Obligations.FrameRowsAreDecodedTheSameWay : Prop :=
  ∀ (s : State) (c flags : Byte) (rest : List Byte),
    (decode { op := 0x21, operands := { input := 0x22 :: 0x21 :: 0xA1 :: flags :: rest } }
        = .instr (.frameGetStatus flags rest)
      ∧ exec (.frameGetStatus flags rest) s = exec (.decode (0x22 :: 0x21 :: 0xA1 :: flags :: rest)) s)
    ∧ (decode { op := 0x21, operands := { input := 0x22 :: 0x21 :: 0xA2 :: flags :: rest } }
        = .instr (.frameSetIntensity flags rest)
      ∧ exec (.frameSetIntensity flags rest) s = exec (.decode (0x22 :: 0x21 :: 0xA2 :: flags :: rest)) s)
    ∧ (decode { op := 0x21, operands := { input := 0x22 :: 0x21 :: 0xA9 :: flags :: rest } }
        = .instr (.framePrintRequest flags rest)
      ∧ exec (.framePrintRequest flags rest) s = exec (.decode (0x22 :: 0x21 :: 0xA9 :: flags :: rest)) s)
    ∧ (decode { op := 0x21, operands := { input := 0x22 :: 0x21 :: 0xAA :: flags :: rest } }
        = .instr (.framePrintComplete flags rest)
      ∧ exec (.framePrintComplete flags rest) s = exec (.decode (0x22 :: 0x21 :: 0xAA :: flags :: rest)) s)
    ∧ (decode { op := 0x21, operands := { input := 0x22 :: 0x21 :: 0xAD :: flags :: rest } }
        = .instr (.frameFlushData flags rest)
      ∧ exec (.frameFlushData flags rest) s = exec (.decode (0x22 :: 0x21 :: 0xAD :: flags :: rest)) s)
    ∧ (c ∉ [0xA1, 0xA2, 0xA9, 0xAA, 0xAD] →
        decode { op := 0x21, operands := { input := 0x22 :: 0x21 :: c :: flags :: rest } }
          = .instr (.decode (0x22 :: 0x21 :: c :: flags :: rest)))

/-- Rules R55 and R88 together: each of the five frames the table names completes with its decoded frame, where the payload its
length field states is present and, with verification on, the checksum and the terminator follow it. -/
def Obligations.NamedFramesDecodeToTheirFields : Prop :=
  ∀ (s : State) (flags lo hi : Byte) (payload more : List Byte),
    payload.length = lo.toNat + 256 * hi.toNat →
    (s.params.verifyOnDecode = true →
      ∃ after, more = checksum s.params.substTable payload :: 0xFF :: after) →
    Answers (.frameGetStatus flags (lo :: hi :: (payload ++ more))) s 0x00 0
        (.frame ⟨0xA1, flags, BitVec.ofNat 16 payload.length, payload⟩)
      ∧ Answers (.frameSetIntensity flags (lo :: hi :: (payload ++ more))) s 0x00 0
        (.frame ⟨0xA2, flags, BitVec.ofNat 16 payload.length, payload⟩)
      ∧ Answers (.framePrintRequest flags (lo :: hi :: (payload ++ more))) s 0x00 0
        (.frame ⟨0xA9, flags, BitVec.ofNat 16 payload.length, payload⟩)
      ∧ Answers (.framePrintComplete flags (lo :: hi :: (payload ++ more))) s 0x00 0
        (.frame ⟨0xAA, flags, BitVec.ofNat 16 payload.length, payload⟩)
      ∧ Answers (.frameFlushData flags (lo :: hi :: (payload ++ more))) s 0x00 0
        (.frame ⟨0xAD, flags, BitVec.ofNat 16 payload.length, payload⟩)

/-! ## The bitmap packer -/

/-- Rule R100: PACK has op 0x30 and operands rows, W, B and M; it answers ERR_GEOMETRY where W is not 8 B, else ERR_ROW_WIDTH with
the index of the first row whose length is not W, else a buffer of `max(len(rows), M) * B` bytes: byte r * B + j has pixel 8 j + k
of row r in bit k, and every byte from len(rows) * B on is 0x00. -/
def Obligations.PackAnswersEveryBitmap : Prop :=
  ∀ (s : State) (rows : List (List Bool)) (w b m : Nat),
    decode { op := 0x30, operands := { rows := rows, rowWidth := w, bytesPerRow := b, minLines := m } }
        = .instr (.pack rows w b m)
      ∧ (w ≠ 8 * b → Answers (.pack rows w b m) s 0x07 0 .empty)
      ∧ (∀ (r : Nat) (row : List Bool), w = 8 * b → rows[r]? = some row → row.length ≠ w →
          (∀ (q : Nat) (row' : List Bool), q < r → rows[q]? = some row' → row'.length = w) →
          Answers (.pack rows w b m) s 0x08 r .empty)
      ∧ (w = 8 * b → (∀ row ∈ rows, row.length = w) →
          ∃ out : List Byte, Answers (.pack rows w b m) s 0x00 0 (.bytes out)
            ∧ out.length = max rows.length m * b
            ∧ (∀ (r j : Nat) (row : List Bool), rows[r]? = some row → j < b →
                ∃ byte : Byte, out[r * b + j]? = some byte
                  ∧ ∀ k, k < 8 → row[8 * j + k]? = some (byte.getLsbD k))
            ∧ ∀ i, rows.length * b ≤ i → i < out.length → out[i]? = some 0x00)

/-- Rule R56's last sentence, rule R37 and rule R103: pixel (r, x) is bit `x mod 8` of byte `r * B + x div 8` of the buffer PACK
returns, so that the bitmap is read back from it. -/
def Obligations.PackedPixelReadsBack : Prop :=
  ∀ (s : State) (rows : List (List Bool)) (w b m : Nat) (out : List Byte),
    Answers (.pack rows w b m) s 0x00 0 (.bytes out) →
      ∀ (r x : Nat) (row : List Bool), rows[r]? = some row → x < w →
        ∃ byte : Byte, out[r * b + x / 8]? = some byte
          ∧ row[x]? = some (decide ((byte.toNat >>> (x % 8)) &&& 1 = 1))

/-- 42_bitmap_packer.md section 1: the value of a packed byte is the sum of its pixels' powers of two. -/
def Obligations.PackedByteIsTheSumOfItsPixels : Prop :=
  ∀ (s : State) (rows : List (List Bool)) (w b m : Nat) (out : List Byte),
    Answers (.pack rows w b m) s 0x00 0 (.bytes out) →
      ∀ (r j : Nat) (row : List Bool), rows[r]? = some row → j < b →
        ∃ byte : Byte, out[r * b + j]? = some byte
          ∧ byte.toNat
              = ((List.range 8).map fun k => if row[8 * j + k]? = some true then 2 ^ k else 0).sum

/-- 30_encoding.md section 3 and the source's example L1.5: with the operands a `pack` line omits at their defaults, a bitmap of
384-pixel rows gives max(len(rows), 90) * 48 bytes, at least 4320; one all-true row gives 48 bytes 0xFF, then 4272 bytes 0x00. -/
def Obligations.PackWithDefaultOperands : Prop :=
  (∀ (s : State) (rows : List (List Bool)), (∀ row ∈ rows, row.length = 384) →
    ∃ out : List Byte, Answers (AsmLine.packInstr rows none none none) s 0x00 0 (.bytes out)
      ∧ out.length = max rows.length 90 * 48 ∧ 4320 ≤ out.length)
    ∧ ∀ s : State, Answers (AsmLine.packInstr [List.replicate 384 true] none none none) s 0x00 0
        (.bytes (List.replicate 48 0xFF ++ List.replicate 4272 0x00))

/-! ## Decoding requests -/

/-- 30_encoding.md section 4: each of the seven operation codes of rule R59 selects its operation with the operand fields listed
for it, and every other code is rejected by its value.  Two clauses are the model's choice: that a field the operation does not list
may hold anything and is not read (notes/assumptions/4.md, DESIGN CHOICE: by rule R58 no request carries one), and that code 0x21
selects `decodeInput`, which names an input with one of the five headers by its `frame_header` row and every other one by DECODE
(notes/assumptions/5.md, DEDUCED; what 0x21 does on every input is `DecodeAnswersEveryInput`). -/
def Obligations.OperationCodesSelectTheirOperations : Prop :=
  ∀ o : Operands,
    (∀ op : Byte, op ∉ [0x01, 0x02, 0x03, 0x10, 0x20, 0x21, 0x30] →
        decode { op := op, operands := o } = .illegalOp op)
      ∧ decode { op := 0x01, operands := o } = .instr .crcClear
      ∧ decode { op := 0x02, operands := o } = .instr (.crcStep o.b)
      ∧ decode { op := 0x03, operands := o } = .instr .crcRead
      ∧ decode { op := 0x10, operands := o } = .instr (.checksum o.input)
      ∧ decode { op := 0x20, operands := o } = .instr (.encode o.cmdId o.payload)
      ∧ decode { op := 0x21, operands := o } = .instr (decodeInput o.input)
      ∧ decode { op := 0x30, operands := o }
          = .instr (.pack o.rows o.rowWidth o.bytesPerRow o.minLines)

/-- The words of spec/opcode_table.json, written from its match values with the operand bits zero, read as their instructions, a
`frame_header` row whatever its unmatched byte 3.  How a word is laid out as a request, and the four zero bytes after a header, are
the model's choice (notes/assumptions/6.md, DESIGN CHOICE). -/
def Obligations.TableWordsDecode : Prop :=
  decodeTableWord 8 0x01 = some .crcClear
    ∧ decodeTableWord 8 0x02 = some (.crcStep 0x00)
    ∧ decodeTableWord 8 0x03 = some .crcRead
    ∧ decodeTableWord 8 0x10 = some (.checksum [])
    ∧ decodeTableWord 8 0x20 = some (.encode 0x00 [])
    ∧ decodeTableWord 8 0x21 = some (.decode [])
    ∧ decodeTableWord 8 0x30 = some (.pack [] 0 0 0)
    ∧ ∀ flags : Byte,
        decodeTableWord 32 (0x2221A100 + flags.toNat) = some (.frameGetStatus flags [0, 0, 0, 0])
          ∧ decodeTableWord 32 (0x2221A200 + flags.toNat) = some (.frameSetIntensity flags [0, 0, 0, 0])
          ∧ decodeTableWord 32 (0x2221A900 + flags.toNat) = some (.framePrintRequest flags [0, 0, 0, 0])
          ∧ decodeTableWord 32 (0x2221AA00 + flags.toNat) = some (.framePrintComplete flags [0, 0, 0, 0])
          ∧ decodeTableWord 32 (0x2221AD00 + flags.toNat) = some (.frameFlushData flags [0, 0, 0, 0])

/-- Decode and encode agree: every well-formed instruction, with every value of its operands, is what its request decodes to. -/
def Obligations.DecodeOfEncodeIsTheInstruction : Prop :=
  ∀ i : Instr, WellFormed i = true → decode (encode i) = .instr i

/-- The other direction: a request that carries the operand fields of its operation alone is the encoding of what it decodes to,
and whatever a request decodes to is well-formed. -/
def Obligations.EncodeOfDecodeIsTheRequest : Prop :=
  ∀ (r : Request) (i : Instr), decode r = .instr i →
    WellFormed i = true ∧ (r.wf = true → encode i = r)

/-- Rule R60: every `op` value outside rule R59 is answered ERR_OP with info = the op value, whatever operands come with it, and
nothing of the state changes. -/
def Obligations.IllegalOpIsAnsweredErrOp : Prop :=
  ∀ (s : State) (op : Byte) (o : Operands) (rest : List PortEvent),
    op ∉ [0x01, 0x02, 0x03, 0x10, 0x20, 0x21, 0x30] →
    s.inputs = .request { op := op, operands := o } :: rest →
      step s = .next { s with inputs := rest, responses := s.responses ++ [⟨0x01, op.toNat, .empty⟩] }

/-! ## The step -/

/-- A step runs the decoded instruction: where the next event is a request that decodes to i, the step is `exec i` on the state
from whose port the request has been taken.  The engine has no pc (rule R21); nothing else is added round `exec`.  The
second clause, that a word of the opcode table placed at the port is run as the instruction the decoder reads from it, is about the
model's own layout of a word as a request and its placing before every event already waiting (notes/assumptions/6.md, DESIGN
CHOICE). -/
def Obligations.StepRunsTheDecodedInstruction : Prop :=
  (∀ (s : State) (r : Request) (rest : List PortEvent) (i : Instr),
    s.inputs = .request r :: rest → decode r = .instr i → step s = exec i { s with inputs := rest })
    ∧ ∀ (s : State) (nbits w : Nat) (i : Instr), decodeTableWord nbits w = some i →
        step (s.withFetchWord nbits w) = exec i s

/-- 60_exceptions.md section 5: idleness preserves ACC (and everything else). -/
def Obligations.IdleStepChangesNothing : Prop :=
  ∀ s : State, s.inputs = [] → step s = .next s

/-- Rules R140 and R141: reset, between requests or during one, leaves ACC = 0x00 and the constants unchanged; the request in
progress produces no response and has no effect; a `crc.step` sequence right after reset computes the checksum of its bytes.  That the
responses already returned and the events still to come are kept is the model's choice (notes/assumptions/7.md, DESIGN CHOICE). -/
def Obligations.ResetLeavesTheResetState : Prop :=
  ∀ (s : State) (e : PortEvent) (events : List PortEvent), s.inputs = e :: events →
    (e = .reset ∨ ∃ r, e = .resetDuring r) →
      step s = .next { s with acc := 0x00, inputs := events }
        ∧ ∀ (bs : List Byte) (rest : List PortEvent),
            events = issue (bs.map fun b => encode (.crcStep b)) ++ rest →
            ∃ t, runSteps (1 + bs.length) s = .next t
              ∧ t.acc = checksum s.params.substTable bs ∧ t.params = s.params

/-- 70_reset_and_hazards.md section 1 and 00_scope.md section 4: the state after reset has ACC = 0x00 and the default decode mode;
that nothing is issued and nothing returned in it is the model's choice (notes/assumptions/3.md). -/
def Obligations.ResetStateValues : Prop :=
  State.reset.acc = 0x00 ∧ State.reset.params.verifyOnDecode = false
    ∧ State.reset.params.substTable = Config.substTable
    ∧ State.reset.inputs = [] ∧ State.reset.responses = []

/-! ## Frames of the instructions, and whole-machine rules -/

/-- Rule R22: CRC_CLEAR writes 0x00 to ACC and CRC_STEP writes `T[ACC XOR b]`; no other instruction writes it; no response but
CRC_READ's depends on it; its reset value is 0x00. -/
def Obligations.AccIsReadAndWrittenByItsOperationsOnly : Prop :=
  (∀ s t : State, exec .crcClear s = .next t → t.acc = 0x00)
    ∧ (∀ (b : Byte) (s t : State), exec (.crcStep b) s = .next t →
        t.acc = tableAt s.params.substTable (s.acc ^^^ b))
    ∧ (∀ (i : Instr) (s t : State), i ≠ .crcClear → (∀ b, i ≠ .crcStep b) →
        exec i s = .next t → t.acc = s.acc)
    ∧ (∀ (i : Instr) (s t : State) (v : Byte), i ≠ .crcRead → exec i s = .next t →
        ∃ u, exec i { s with acc := v } = .next u ∧ u.responses = t.responses)
    ∧ State.reset.acc = 0x00

/-- The frame of every instruction: the constants and the events still to come are unchanged, and the responses already returned
are kept, one being appended.  (What happens to ACC is said instruction by instruction.) -/
def Obligations.ExecChangesOnlyAccAndAppendsOneResponse : Prop :=
  ∀ (i : Instr) (s t : State), exec i s = .next t →
    t.params = s.params ∧ t.inputs = s.inputs ∧ ∃ a : Response, t.responses = s.responses ++ [a]

/-- Rule R121: a request answered with an error changes no state and returns no data. -/
def Obligations.ErrorChangesNoState : Prop :=
  ∀ (s t : State) (r : Request) (rest : List PortEvent) (a : Response),
    s.inputs = .request r :: rest → step s = .next t → t.responses = s.responses ++ [a] →
    a.status ≠ 0x00 →
      a.data = .empty ∧ t = { s with inputs := rest, responses := s.responses ++ [a] }

/-- Rules R25 and R122: errors are not fatal and not sticky.  After a request answered with an error, the next request gets the
response, and leaves the ACC, that it would have got and left had the failed one never been issued. -/
def Obligations.ErrorsAreNotSticky : Prop :=
  ∀ (s t : State) (r q : Request) (rest : List PortEvent) (a : Response),
    s.inputs = .request r :: .request q :: rest → step s = .next t →
    t.responses = s.responses ++ [a] → a.status ≠ 0x00 →
      ∃ (v : Byte) (answer : Response),
        step t = .next { acc := v, params := s.params, inputs := rest, responses := s.responses ++ [a, answer] }
          ∧ step { s with inputs := .request q :: rest }
              = .next { acc := v, params := s.params, inputs := rest, responses := s.responses ++ [answer] }

/-- 10_state.md section 10: no hidden state.  Two states with the same ACC and constants, whatever was issued and returned before
and whatever comes after, answer the same request alike and are left with the same ACC. -/
def Obligations.AnswersDependOnAccAndConstantsOnly : Prop :=
  ∀ (s u : State) (r : Request) (restS restU : List PortEvent),
    s.acc = u.acc → s.params = u.params →
    s.inputs = .request r :: restS → u.inputs = .request r :: restU →
      ∃ (v : Byte) (answer : Response),
        step s = .next
            { acc := v, params := s.params, inputs := restS, responses := s.responses ++ [answer] }
          ∧ step u = .next
            { acc := v, params := u.params, inputs := restU, responses := u.responses ++ [answer] }

/-- 20_memory.md section 3: CHECKSUM, ENCODE, DECODE and PACK (and DECODE of a frame the table names) give the same response for
the same operands in any state of an instance, and issued again give it again. -/
def Obligations.StatelessOperationsRepeat : Prop :=
  ∀ (i : Instr) (s u : State), i ≠ .crcClear → (∀ b, i ≠ .crcStep b) → i ≠ .crcRead →
    s.params = u.params →
      ∃ a : Response,
        exec i s = .next { s with responses := s.responses ++ [a] }
          ∧ exec i u = .next { u with responses := u.responses ++ [a] }
          ∧ exec i { s with responses := s.responses ++ [a] }
              = .next { s with responses := s.responses ++ [a, a] }

/-- 00_scope.md section 7 and 20_memory.md section 5: requests are answered one by one in the order issued, each exactly once,
whatever they are (illegal codes included), and the responses to the earlier ones do not depend on the later ones. -/
def Obligations.EveryRequestGetsOneResponseInOrder : Prop :=
  ∀ (s : State) (first : List Request), ∃ answers : List Response, answers.length = first.length
    ∧ ∀ (later : List Request) (rest : List PortEvent),
        ∃ (t : State) (more : List Response),
          runSteps (first.length + later.length)
              { s with inputs := issue first ++ issue later ++ rest } = .next t
            ∧ t.inputs = rest ∧ t.params = s.params ∧ more.length = later.length
            ∧ t.responses = s.responses ++ answers ++ more

/-- 00_scope.md section 7 and 60_exceptions.md section 2: the engine has no trap and stops on nothing.  From every state, runs of
every length complete, whatever the environment does. -/
def Obligations.NoRunEverStops : Prop := ∀ s : State, RunsForever s

/-- The invariant of the responses holds at reset. -/
def Obligations.ResponsesHaveTheirFormAtReset : Prop := State.reset.responsesWf = true

/-- 60_exceptions.md section 1 (values 0x09 .. 0xFF are never returned; an error returns no data; OK has info 0) and 20_memory.md
section 1 (a decoded payload is as long as its length field): where every response returned so far has that form, so has every
response after a step. -/
def Obligations.StepKeepsTheFormOfResponses : Prop :=
  ∀ s t : State, s.responsesWf = true → step s = .next t → t.responsesWf = true

/-! ## The assembler -/

/-- Rule R63: each pseudo-instruction is the ENCODE request it expands to, and `checksum.stream` the sequence of CRC requests,
which returns what `checksum` returns and leaves ACC = the result. -/
def Obligations.PseudoInstructionsExpand : Prop :=
  (∀ bs : List Byte, (AsmLine.frameGetStatus bs).requests
      = [{ op := 0x20, operands := { cmdId := 0xA1, payload := bs } }])
    ∧ (∀ i : Byte, (AsmLine.frameSetIntensity i).requests
        = [{ op := 0x20, operands := { cmdId := 0xA2, payload := [i] } }])
    ∧ (∀ (lines : Nat) (k mode : Byte), lines ≤ 65535 → ∃ lo hi : Byte,
        lo.toNat + 256 * hi.toNat = lines
          ∧ (AsmLine.framePrintRequest lines k mode).requests
              = [{ op := 0x20, operands := { cmdId := 0xA9, payload := [lo, hi, k, mode] } }])
    ∧ AsmLine.frameFlush.requests = [{ op := 0x20, operands := { cmdId := 0xAD, payload := [0x00] } }]
    ∧ ∀ (bs : List Byte) (s : State) (rest : List PortEvent),
        s.inputs = issue (AsmLine.checksumStream bs).requests ++ rest →
        (AsmLine.checksumStream bs).requests
            = { op := 0x01 } :: (bs.map (fun b => { op := 0x02, operands := { b := b } })
              ++ [{ op := 0x03 }])
          ∧ ∃ (t : State) (before : List Response),
              runSteps (AsmLine.checksumStream bs).requests.length s = .next t
                ∧ t.acc = checksum s.params.substTable bs
                ∧ t.responses = s.responses ++ before
                    ++ [⟨0x00, 0, .byte (checksum s.params.substTable bs)⟩]

/-- 30_encoding.md section 5: an operand `pack` omits takes its default, one it gives its value; and five SAMPLE lines of the syntax
are read as the requests they stand for.  That a byte above 255 is refused is the model's choice (notes/assumptions/13.md, DESIGN
CHOICE).  The law over every line is `AssemblerReadsEveryLine`. -/
def Obligations.PackDefaultsAndSampleLines : Prop :=
  (∀ (rows : List (List Bool)) (w b m : Option Nat),
    (AsmLine.pack rows w b m).requests
      = [{ op := 0x30
           operands :=
            { rows := rows, rowWidth := w.getD 384, bytesPerRow := b.getD 48, minLines := m.getD 90 } }])
    ∧ assemble "crc.clear" = some [{ op := 0x01 }]
    ∧ assemble "crc.step 0x5D" = some [{ op := 0x02, operands := { b := 0x5D } }]
    ∧ assemble "encode 0xA2, [0x5D]"
        = some [{ op := 0x20, operands := { cmdId := 0xA2, payload := [0x5D] } }]
    ∧ assemble "decode [0x22, 0x21]" = some [{ op := 0x21, operands := { input := [0x22, 0x21] } }]
    ∧ assemble "pack rep(2, fill(4, 1)), bytesPerRow=2"
        = some [{ op := 0x30
                  operands :=
                    { rows := [[true, true, true, true], [true, true, true, true]]
                      rowWidth := 384, bytesPerRow := 2, minLines := 90 } }]
    ∧ assemble "decode [256]" = none

/-- 30_encoding.md section 5: the assembler reads every line of its syntax.  Whatever a line's mnemonic and operands are, the line
written out (bytes as `0xNN`, naturals in decimal, rows as 0s and 1s or `[]`, given PACK operands as `name=<n>`, omitted ones left
out) is read back as that line and assembled to its requests.  A pack line with its rows in any of the other forms (bits in quotes,
`fill(n, v)`, the rows in a list or `rep(k, <row>)`) is read as the pack of the rows they write.  The spacing, the number forms and the
quotes written are the model's choice (notes/assumptions/13.md, DESIGN CHOICE). -/
def Obligations.AssemblerReadsEveryLine : Prop :=
  (∀ (l : AsmLine) (line : String), l.wf = true → line.toList = l.chars →
    parseLine line = some l ∧ assemble line = some l.requests)
    ∧ ∀ (rows : RowsForm) (w b m : Option Nat) (line : String),
        line.toList = lineChars "pack" (rows.tokens ++ packOperandsTokens w b m) →
        parseLine line = some (.pack rows.rows w b m)
          ∧ assemble line = some (AsmLine.pack rows.rows w b m).requests
end

