-- ==== Sys2Proof/Laws/State.lean ====
section
/-! SUPPORT. One lemma per field and update of State, so that no later proof unfolds a record update. -/

namespace Sys2Proof.Machine

variable (s : State)

/-! ## `State.respond` -/

@[simp] theorem State.respond_acc (r : Response) : (s.respond r).acc = s.acc := rfl
@[simp] theorem State.respond_params (r : Response) : (s.respond r).params = s.params := rfl
@[simp] theorem State.respond_inputs (r : Response) : (s.respond r).inputs = s.inputs := rfl
@[simp] theorem State.respond_responses (r : Response) : (s.respond r).responses = s.responses ++ [r] := rfl

/-! ## `State.writeAcc` -/

@[simp] theorem State.writeAcc_acc (v : Byte) : (s.writeAcc v).acc = v := rfl
@[simp] theorem State.writeAcc_params (v : Byte) : (s.writeAcc v).params = s.params := rfl
@[simp] theorem State.writeAcc_inputs (v : Byte) : (s.writeAcc v).inputs = s.inputs := rfl
@[simp] theorem State.writeAcc_responses (v : Byte) : (s.writeAcc v).responses = s.responses := rfl
@[simp] theorem State.writeAcc_self : s.writeAcc s.acc = s := rfl

/-! ## `State.withInputs` and `State.issueNext` -/

@[simp] theorem State.withInputs_acc (es : List PortEvent) : (s.withInputs es).acc = s.acc := rfl
@[simp] theorem State.withInputs_params (es : List PortEvent) : (s.withInputs es).params = s.params := rfl
@[simp] theorem State.withInputs_inputs (es : List PortEvent) : (s.withInputs es).inputs = es := rfl
@[simp] theorem State.withInputs_responses (es : List PortEvent) :
    (s.withInputs es).responses = s.responses := rfl
@[simp] theorem State.issueNext_acc (r : Request) : (s.issueNext r).acc = s.acc := rfl
@[simp] theorem State.issueNext_params (r : Request) : (s.issueNext r).params = s.params := rfl
@[simp] theorem State.issueNext_inputs (r : Request) : (s.issueNext r).inputs = .request r :: s.inputs := rfl
@[simp] theorem State.issueNext_responses (r : Request) : (s.issueNext r).responses = s.responses := rfl

/-! ## `resetEngine` and the state after reset -/

@[simp] theorem resetEngine_acc : (resetEngine s).acc = 0x00 := rfl
@[simp] theorem resetEngine_params : (resetEngine s).params = s.params := rfl
@[simp] theorem resetEngine_inputs : (resetEngine s).inputs = s.inputs := rfl
@[simp] theorem resetEngine_responses : (resetEngine s).responses = s.responses := rfl
@[simp] theorem State.reset_acc : State.reset.acc = 0x00 := rfl
@[simp] theorem State.reset_params : State.reset.params = Config.params := rfl
@[simp] theorem State.reset_inputs : State.reset.inputs = [] := rfl
@[simp] theorem State.reset_responses : State.reset.responses = [] := rfl

/-! ## The fields of a response -/

@[simp] theorem okResponse_status (d : ResponseData) : (okResponse d).status = 0x00 := rfl
@[simp] theorem okResponse_info (d : ResponseData) : (okResponse d).info = 0 := rfl
@[simp] theorem okResponse_data (d : ResponseData) : (okResponse d).data = d := rfl
@[simp] theorem raise_status (c : ResultCode) (n : Nat) : (raise c n).status = statusCode c := rfl
@[simp] theorem raise_info (c : ResultCode) (n : Nat) : (raise c n).info = n := rfl
@[simp] theorem raise_data (c : ResultCode) (n : Nat) : (raise c n).data = .empty := rfl

end Sys2Proof.Machine
end

