-- ==== Sys2Proof/Laws/Checksum.lean ====
section
/-! SUPPORT. The checksum function and its fold (rules R71, R72). -/

namespace Sys2Proof.Machine

variable (table : Vector Byte 256)

@[simp] theorem crcFold_nil (acc : Byte) : crcFold table acc [] = acc := rfl

@[simp] theorem crcFold_cons (acc b : Byte) (bs : List Byte) :
    crcFold table acc (b :: bs) = crcFold table (crcUpdate table acc b) bs := rfl

/-- A fold over two pieces carries the accumulator from the first to the second. -/
theorem crcFold_append (acc : Byte) (xs ys : List Byte) :
    crcFold table acc (xs ++ ys) = crcFold table (crcFold table acc xs) ys :=
  List.foldl_append

/-- The table is read at an index that is in range. -/
theorem tableAt_eq_getElem? (i : Byte) : table[i.toNat]? = some (tableAt table i) :=
  Vector.getElem?_eq_getElem i.isLt

end Sys2Proof.Machine
end

