-- ==== Sys2Proof/Laws/Codec.lean ====
section
/-! SUPPORT. Reading what MemWrite wrote, the bytes of an encoded frame, and DECODE by the shape of its input. -/

namespace Sys2Proof.Machine

/-! ## Little-endian halves (rule R36) -/

theorem memRead2_toNat (bs : List Byte) (addr : Nat) :
    (memRead2 bs addr).toNat
      = (memRead1 bs addr).toNat + 256 * (memRead1 bs (addr + 1)).toNat := by
  have h0 := (memRead1 bs addr).isLt
  have h1 := (memRead1 bs (addr + 1)).isLt
  rw [memRead2, BitVec.toNat_or, BitVec.toNat_shiftLeft, BitVec.toNat_setWidth, BitVec.toNat_setWidth,
    Nat.mod_eq_of_lt (by omega), Nat.mod_eq_of_lt (by omega : (memRead1 bs (addr + 1)).toNat < 2 ^ 16),
    Nat.mod_eq_of_lt (by rw [Nat.shiftLeft_eq]; omega),
    Nat.or_comm, ← Nat.shiftLeft_add_eq_or_of_lt h0, Nat.shiftLeft_eq]
  omega

/-- The two bytes of a length in 0 .. 65535, low byte first, give the length back. -/
theorem lengthBytes_toNat {n : Nat} (h : n ≤ 65535) :
    (BitVec.ofNat 8 n).toNat + 256 * (BitVec.ofNat 8 (n >>> 8)).toNat = n := by
  simp only [BitVec.toNat_ofNat, Nat.shiftRight_eq_div_pow]
  omega

/-! ## The encoded frame (rules R50, R51) -/

theorem frameBytes_eq (table : Vector Byte 256) (c : Byte) (payload : List Byte) :
    frameBytes table c payload
      = 0x22 :: 0x21 :: c :: 0x00 :: BitVec.ofNat 8 payload.length
          :: BitVec.ofNat 8 (payload.length >>> 8) :: (payload ++ [checksum table payload, 0xFF]) := by
  simp [frameBytes, memWrite2, Config.marker0, Config.marker1, Config.reservedByte, Config.terminator]

theorem frameBytes_length (table : Vector Byte 256) (c : Byte) (payload : List Byte) :
    (frameBytes table c payload).length = 8 + payload.length := by
  simp [frameBytes_eq]
  omega

/-! ## DECODE by the shape of its input (rule R88) -/

/-- An input that does not begin with the two markers. -/
theorem decodeFrame_marker (p : Params) {input : List Byte}
    (h : ∀ rest, input ≠ 0x22 :: 0x21 :: rest) : decodeFrame p input = raise .errMarker 0 := by
  unfold decodeFrame
  rw [if_pos]
  match input, h with
  | [], _ => simp
  | [_], _ => simp
  | a :: b :: rest, h =>
    by_cases ha : a = 0x22
    · by_cases hb : b = 0x21
      · exact absurd (by rw [ha, hb]) (h rest)
      · exact .inr (.inr (by simpa [memRead1, Config.marker1] using hb))
    · exact .inr (.inl (by simpa [memRead1, Config.marker0] using ha))

/-- An input with both markers and no length field. -/
theorem decodeFrame_short (p : Params) {rest : List Byte} (h : rest.length < 4) :
    decodeFrame p (0x22 :: 0x21 :: rest) = raise .errShort (rest.length + 2) := by
  unfold decodeFrame
  rw [if_neg (by simp [memRead1, Config.marker0, Config.marker1]), if_pos (by simp; omega)]
  rfl

/-- An input with a whole header: the length check, then the verification, then the decoded frame. -/
theorem decodeFrame_header (p : Params) (c flags lo hi : Byte) (rest : List Byte) :
    decodeFrame p (0x22 :: 0x21 :: c :: flags :: lo :: hi :: rest)
      = if rest.length < lo.toNat + 256 * hi.toNat then raise .errTruncated (lo.toNat + 256 * hi.toNat)
        else
          match trailerError p (0x22 :: 0x21 :: c :: flags :: lo :: hi :: rest)
              (rest.take (lo.toNat + 256 * hi.toNat)) with
          | some info => raise .errCorrupt info
          | none =>
            okResponse (.frame
              { cmdId := c
                flags := flags
                length := BitVec.ofNat 16 (lo.toNat + 256 * hi.toNat)
                payload := rest.take (lo.toNat + 256 * hi.toNat) }) := by
  have hn : (memRead2 (0x22 :: 0x21 :: c :: flags :: lo :: hi :: rest) 4).toNat = lo.toNat + 256 * hi.toNat := by
    rw [memRead2_toNat]; rfl
  have hw : memRead2 (0x22 :: 0x21 :: c :: flags :: lo :: hi :: rest) 4
      = BitVec.ofNat 16 (lo.toNat + 256 * hi.toNat) := by
    rw [← hn, BitVec.ofNat_toNat]; rfl
  unfold decodeFrame
  rw [if_neg (by simp [memRead1, Config.marker0, Config.marker1]), if_neg (by simp), hn, hw]
  have hl : (0x22 :: 0x21 :: c :: flags :: lo :: hi :: rest).length < 6 + (lo.toNat + 256 * hi.toNat)
      ↔ rest.length < lo.toNat + 256 * hi.toNat := by
    simp; omega
  simp only [hl]
  rfl

/-- Without verification no trailer is examined. -/
@[simp] theorem trailerError_off {p : Params} (h : p.verifyOnDecode = false) (input payload : List Byte) :
    trailerError p input payload = none := by
  simp [trailerError, h]

/-- With verification, by what follows the payload. -/
theorem trailerError_on {p : Params} (h : p.verifyOnDecode = true) (c flags lo hi : Byte)
    (payload more : List Byte) :
    trailerError p (0x22 :: 0x21 :: c :: flags :: lo :: hi :: (payload ++ more)) payload
      = match more with
        | k :: t :: _ =>
          if k ≠ checksum p.substTable payload then some 2 else if t ≠ 0xFF then some 3 else none
        | _ => some 1 := by
  have hk : memRead1 (0x22 :: 0x21 :: c :: flags :: lo :: hi :: (payload ++ more)) (6 + payload.length)
      = more.getD 0 0 := by
    rw [memRead1, Nat.add_comm 6]
    simp [List.getD_eq_getElem?_getD, List.getElem?_append_right]
  have ht : memRead1 (0x22 :: 0x21 :: c :: flags :: lo :: hi :: (payload ++ more)) (7 + payload.length)
      = more.getD 1 0 := by
    rw [memRead1, show 7 + payload.length = payload.length + 1 + 6 by omega]
    simp [List.getD_eq_getElem?_getD, List.getElem?_append_right]
  unfold trailerError
  rw [if_pos h, hk, ht]
  match more with
  | [] => simp; omega
  | [_] => simp; omega
  | k :: t :: m =>
    rw [if_neg (by simp; omega)]
    rfl

/-- An input with a whole header and its payload, then `more`: the answer by what `more` is. -/
theorem decodeFrame_payload (p : Params) (c flags lo hi : Byte) (payload more : List Byte)
    (h : payload.length = lo.toNat + 256 * hi.toNat) :
    decodeFrame p (0x22 :: 0x21 :: c :: flags :: lo :: hi :: (payload ++ more))
      = match trailerError p (0x22 :: 0x21 :: c :: flags :: lo :: hi :: (payload ++ more)) payload with
        | some info => raise .errCorrupt info
        | none =>
          okResponse (.frame
            { cmdId := c, flags := flags, length := BitVec.ofNat 16 payload.length, payload := payload }) := by
  rw [decodeFrame_header, ← h, if_neg (by simp), List.take_left' rfl]

/-- Every input has one of the three shapes the lemmas above are about. -/
theorem input_shape (input : List Byte) :
    (∀ rest, input ≠ 0x22 :: 0x21 :: rest)
      ∨ (∃ rest, input = 0x22 :: 0x21 :: rest ∧ rest.length < 4)
      ∨ ∃ c flags lo hi rest, input = 0x22 :: 0x21 :: c :: flags :: lo :: hi :: rest := by
  by_cases h : ∃ rest, input = 0x22 :: 0x21 :: rest
  · obtain ⟨rest, rfl⟩ := h
    match rest with
    | c :: f :: lo :: hi :: rest => exact .inr (.inr ⟨c, f, lo, hi, rest, rfl⟩)
    | [] => exact .inr (.inl ⟨[], rfl, by simp⟩)
    | [a] => exact .inr (.inl ⟨[a], rfl, by simp⟩)
    | [a, b] => exact .inr (.inl ⟨[a, b], rfl, by simp⟩)
    | [a, b, d] => exact .inr (.inl ⟨[a, b, d], rfl, by simp⟩)
  · exact .inl fun rest hr => h ⟨rest, hr⟩

end Sys2Proof.Machine
end

