-- ==== Sys2Proof/Laws/Decode.lean ====
section
/-! SUPPORT. The selecting codes and the frame headers of the decoder. -/

namespace Sys2Proof

@[simp] theorem operationOf_code (o : Operation) : operationOf o.code = some o := by
  cases o <;> rfl

/-- Only an operation's own code selects it. -/
theorem operationOf_eq_some {op : Byte} {o : Operation} (h : operationOf op = some o) : op = o.code := by
  unfold operationOf at h
  split_ifs at h <;> cases h <;> assumption

@[simp] theorem commandOf_code (c : CommandId) : commandOf c.code = some c := by
  cases c <;> rfl

/-- Only a command identifier's own code names it. -/
theorem commandOf_eq_some {b : Byte} {c : CommandId} (h : commandOf b = some c) : b = c.code := by
  unfold commandOf at h
  split_ifs at h <;> cases h <;> assumption

@[simp] theorem frameHeaderOf_frameInput (c : CommandId) (flags : Byte) (rest : List Byte) :
    frameHeaderOf (frameInput c flags rest) = some (c, flags, rest) := by
  simp [frameHeaderOf, frameInput]

/-- An input whose header a table row matches is that frame's input. -/
theorem frameHeaderOf_eq_some {input : List Byte} {c : CommandId} {flags : Byte} {rest : List Byte}
    (h : frameHeaderOf input = some (c, flags, rest)) : input = frameInput c flags rest := by
  unfold frameHeaderOf at h
  split at h
  · split_ifs at h with hm
    split at h
    · next hc =>
      cases h
      rw [frameInput, ← hm.1, ← hm.2, ← commandOf_eq_some hc]
    · cases h
  · cases h

end Sys2Proof
end

