-- ==== Sys2Proof/Laws/Exec.lean ====
section
/-! SUPPORT. Everything `exec` and `step` can do, said once. -/

namespace Sys2Proof.Machine

/-- The value an instruction leaves in ACC. -/
def accAfter (i : Instr) (s : State) : Byte :=
  match i with
  | .crcClear => 0x00
  | .crcStep b => crcUpdate s.params.substTable s.acc b
  | _ => s.acc

/-- The response an instruction gives: it depends on ACC for CRC_READ alone. -/
def responseTo (i : Instr) (p : Params) (acc : Byte) : Response :=
  match i with
  | .crcClear => okResponse .empty
  | .crcStep _ => okResponse .empty
  | .crcRead => okResponse (.byte acc)
  | .checksum input => okResponse (.byte (checksum p.substTable input))
  | .encode cmdId payload => encodeFrame p cmdId payload
  | .decode input => decodeFrame p input
  | .pack rows w b m => packImage rows w b m
  | .frameGetStatus flags rest => decodeFrame p (frameInput .getStatus flags rest)
  | .frameSetIntensity flags rest => decodeFrame p (frameInput .setIntensity flags rest)
  | .framePrintRequest flags rest => decodeFrame p (frameInput .printRequest flags rest)
  | .framePrintComplete flags rest => decodeFrame p (frameInput .printComplete flags rest)
  | .frameFlushData flags rest => decodeFrame p (frameInput .flushData flags rest)

/-- Every instruction writes ACC at most, and appends its response. -/
theorem exec_eq (i : Instr) (s : State) :
    exec i s = .next ((s.writeAcc (accAfter i s)).respond (responseTo i s.params s.acc)) := by
  cases i <;> rfl

/-- The state after an instruction that completes, which is every instruction. -/
theorem exec_next {i : Instr} {s t : State} (h : exec i s = .next t) :
    t = (s.writeAcc (accAfter i s)).respond (responseTo i s.params s.acc) := by
  rw [exec_eq] at h
  cases h
  rfl

/-- Only CRC_CLEAR and CRC_STEP write ACC. -/
theorem accAfter_eq_acc {i : Instr} (hc : i ≠ .crcClear) (hs : ∀ b, i ≠ .crcStep b) (s : State) :
    accAfter i s = s.acc := by
  cases i <;> first | rfl | exact absurd rfl hc | exact absurd rfl (hs _)

/-- DECODE of a frame the table names is DECODE of its bytes. -/
theorem exec_instrOfFrame (c : CommandId) (flags : Byte) (rest : List Byte) (s : State) :
    exec (instrOfFrame c flags rest) s = exec (.decode (frameInput c flags rest)) s := by
  cases c <;> rfl

/-! ## The step -/

theorem step_nil {s : State} (h : s.inputs = []) : step s = .next s := by
  simp [step, takeNext, h, idle]

theorem step_cons {s : State} {e : PortEvent} {rest : List PortEvent} (h : s.inputs = e :: rest) :
    step s = takeEvent e (s.withInputs rest) := by
  simp [step, takeNext, h]

theorem takeRequest_instr {r : Request} {i : Instr} (h : decode r = .instr i) (s : State) :
    takeRequest r s = exec i s := by
  simp [takeRequest, h]

theorem takeRequest_illegalOp {r : Request} {op : Byte} (h : decode r = .illegalOp op) (s : State) :
    takeRequest r s = .next (s.respond (raise .errOp op.toNat)) := by
  simp [takeRequest, h, answerIllegalOp]

/-- Everything a request can do: write ACC, and append one response, both functions of the request, the parameters and ACC. -/
theorem takeRequest_eq (r : Request) (p : Params) (acc : Byte) :
    ∃ (v : Byte) (a : Response), ∀ s : State, s.params = p → s.acc = acc →
      takeRequest r s = .next ((s.writeAcc v).respond a) := by
  cases h : decode r with
  | illegalOp op =>
    refine ⟨acc, raise .errOp op.toNat, fun s _ ha => ?_⟩
    rw [takeRequest_illegalOp h, ← ha, State.writeAcc_self]
  | instr i =>
    refine ⟨accAfter i { acc := acc, params := p, inputs := [], responses := [] }, responseTo i p acc,
      fun s hp ha => ?_⟩
    subst hp ha
    rw [takeRequest_instr h, exec_eq]
    cases i <;> rfl

end Sys2Proof.Machine
end

