-- ==== Sys2Proof/Laws/Packer.lean ====
section
/-! SUPPORT. The bits of a packed byte, the bytes of a packed buffer, its length and its padding (rules R56, R100). -/

namespace Sys2Proof.Machine

/-! ## One byte -/

@[simp] theorem bool2bit_getLsbD (p : Bool) (i : Nat) : (bool2bit p).getLsbD i = (decide (i = 0) && p) := by
  cases p
  · simp [bool2bit]
  · rcases i with _ | i <;> simp [bool2bit, BitVec.getLsbD_one]

@[simp] theorem bool2bit_getElem (p : Bool) {i : Nat} (h : i < 8) : (bool2bit p)[i] = (decide (i = 0) && p) := by
  rw [← BitVec.getLsbD_eq_getElem, bool2bit_getLsbD]

/-- Pixel 8j + k is in bit k. -/
theorem packByte_getLsbD (row : List Bool) (j : Nat) {k : Nat} (hk : k < 8) :
    (packByte row j).getLsbD k = row.getD (8 * j + k) false := by
  simp only [packByte, show List.range 8 = [0, 1, 2, 3, 4, 5, 6, 7] from rfl, List.foldl_cons, List.foldl_nil]
  match k, hk with
  | 0, _ => simp
  | 1, _ => simp
  | 2, _ => simp
  | 3, _ => simp
  | 4, _ => simp
  | 5, _ => simp
  | 6, _ => simp
  | 7, _ => simp

/-! ## Rows and the buffer -/

@[simp] theorem packRow_length (b : Nat) (row : List Bool) : (packRow b row).length = b := by
  simp [packRow]

theorem packRow_getElem? (row : List Bool) {b j : Nat} (h : j < b) :
    (packRow b row)[j]? = some (packByte row j) := by
  simp [packRow, h]

@[simp] theorem packRows_nil (b : Nat) : packRows b [] = [] := rfl

@[simp] theorem packRows_cons (b : Nat) (row : List Bool) (rows : List (List Bool)) :
    packRows b (row :: rows) = packRow b row ++ packRows b rows := rfl

@[simp] theorem packRows_length (b : Nat) (rows : List (List Bool)) :
    (packRows b rows).length = rows.length * b := by
  induction rows with
  | nil => simp
  | cons row rows ih => simp [ih, Nat.succ_mul, Nat.add_comm]

/-- Byte j of row r stands at index r * b + j. -/
theorem packRows_getElem? {b r j : Nat} {rows : List (List Bool)} {row : List Bool}
    (hr : rows[r]? = some row) (hj : j < b) :
    (packRows b rows)[r * b + j]? = some (packByte row j) := by
  induction rows generalizing r with
  | nil => simp at hr
  | cons row' rows ih =>
    cases r with
    | zero =>
      simp only [List.getElem?_cons_zero, Option.some.injEq] at hr
      subst hr
      rw [packRows_cons, Nat.zero_mul, Nat.zero_add, List.getElem?_append_left (by simpa using hj)]
      exact packRow_getElem? _ hj
    | succ r =>
      simp only [List.getElem?_cons_succ] at hr
      rw [packRows_cons, List.getElem?_append_right (by simp [Nat.succ_mul]; omega), packRow_length,
        show (r + 1) * b + j - b = r * b + j by rw [Nat.succ_mul]; omega]
      exact ih hr

theorem padTo_length (m : Nat) (out : List Byte) : (padTo m out).length = max out.length m := by
  unfold padTo
  split <;> simp [zeros] <;> omega

theorem padTo_getElem?_left {m i : Nat} {out : List Byte} (h : i < out.length) : (padTo m out)[i]? = out[i]? := by
  unfold padTo
  split
  · exact List.getElem?_append_left h
  · rfl

/-- From the packed bytes' end on, the buffer is zero bytes. -/
theorem padTo_getElem?_right {m i : Nat} {out : List Byte} (h : out.length ≤ i) (hm : i < m) :
    (padTo m out)[i]? = some 0x00 := by
  unfold padTo
  rw [if_pos (by omega), List.getElem?_append_right h, zeros, List.getElem?_replicate, if_pos (by omega)]

/-! ## The checks -/

theorem firstBadRow_eq_none {w : Nat} {rows : List (List Bool)} :
    firstBadRow w rows = none ↔ ∀ row ∈ rows, row.length = w := by
  simp [firstBadRow]

/-- The row reported is the first whose length differs. -/
theorem firstBadRow_eq_some {w r : Nat} {rows : List (List Bool)} (hr : r < rows.length)
    (hbad : rows[r].length ≠ w) (hbefore : ∀ q (hq : q < r), rows[q].length = w) :
    firstBadRow w rows = some r := by
  rw [firstBadRow, List.findIdx?_eq_some_iff_getElem]
  exact ⟨hr, by simpa using hbad, fun q hq => by simpa using hbefore q hq⟩

/-- PACK where both checks pass. -/
theorem packImage_ok {rows : List (List Bool)} {w b : Nat} (m : Nat) (hw : w = 8 * b)
    (hrows : ∀ row ∈ rows, row.length = w) :
    packImage rows w b m = okResponse (.bytes (padTo (m * b) (packRows b rows))) := by
  simp [packImage, hw, firstBadRow_eq_none.2 (hw ▸ hrows)]

end Sys2Proof.Machine
end

