-- ==== Sys2Proof/Laws/PerInstr.lean ====
section
/-! SUPPORT. One fact for every constructor of Instr: its request carries the operand fields rule R59 lists for its operation, and
no other (rule R58). -/

namespace Sys2Proof.Laws

/-- The request an instruction encodes to has no field but its own. -/
def EncodedRequest.Statement (i : Instr) : Prop := (encode i).wf = true

theorem EncodedRequest.crcClear : EncodedRequest.Statement .crcClear := rfl
theorem EncodedRequest.crcStep (b : Byte) : EncodedRequest.Statement (.crcStep b) := by
  simp [EncodedRequest.Statement, encode, Request.wf, Operation.code, operationOf]
theorem EncodedRequest.crcRead : EncodedRequest.Statement .crcRead := rfl
theorem EncodedRequest.checksum (input : List Byte) : EncodedRequest.Statement (.checksum input) := by
  simp [EncodedRequest.Statement, encode, Request.wf, Operation.code, operationOf]
theorem EncodedRequest.encode (cmdId : Byte) (payload : List Byte) :
    EncodedRequest.Statement (.encode cmdId payload) := by
  simp [EncodedRequest.Statement, Sys2Proof.encode, Request.wf, Operation.code, operationOf]
theorem EncodedRequest.decode (input : List Byte) : EncodedRequest.Statement (.decode input) := by
  simp [EncodedRequest.Statement, Sys2Proof.encode, decodeRequest, Request.wf, Operation.code, operationOf]
theorem EncodedRequest.pack (rows : List (List Bool)) (w b m : Nat) :
    EncodedRequest.Statement (.pack rows w b m) := by
  simp [EncodedRequest.Statement, Sys2Proof.encode, Request.wf, Operation.code, operationOf]
theorem EncodedRequest.frameGetStatus (flags : Byte) (rest : List Byte) :
    EncodedRequest.Statement (.frameGetStatus flags rest) := EncodedRequest.decode _
theorem EncodedRequest.frameSetIntensity (flags : Byte) (rest : List Byte) :
    EncodedRequest.Statement (.frameSetIntensity flags rest) := EncodedRequest.decode _
theorem EncodedRequest.framePrintRequest (flags : Byte) (rest : List Byte) :
    EncodedRequest.Statement (.framePrintRequest flags rest) := EncodedRequest.decode _
theorem EncodedRequest.framePrintComplete (flags : Byte) (rest : List Byte) :
    EncodedRequest.Statement (.framePrintComplete flags rest) := EncodedRequest.decode _
theorem EncodedRequest.frameFlushData (flags : Byte) (rest : List Byte) :
    EncodedRequest.Statement (.frameFlushData flags rest) := EncodedRequest.decode _

end Sys2Proof.Laws
end

