-- ==== Sys2Proof/Laws/Step.lean ====
section
/-! SUPPORT. Runs of several steps: how they chain, and what one event does to the state. -/

namespace Sys2Proof.Machine

/-- A run is the host's run of this machine. -/
theorem runSteps_eq_run (k : Nat) (s : State) : runSteps k s = Host.Core.run Sys2Proof.core k s := by
  induction k generalizing s with
  | zero => rfl
  | succ k ih =>
    simp only [runSteps, Host.Core.run]
    rw [show Sys2Proof.core.step s = step s from rfl]
    cases step s with
    | next t => exact ih t
    | fault r => rfl
    | refused r => rfl

@[simp] theorem runSteps_zero (s : State) : runSteps 0 s = .next s := rfl

/-- The first step of a run, where it completes. -/
theorem runSteps_succ {s t : State} (h : step s = .next t) (k : Nat) : runSteps (k + 1) s = runSteps k t := by
  rw [runSteps, h]

/-- A run of j steps that completes, then one of k, is a run of j + k steps. -/
theorem runSteps_add {j : Nat} {s t : State} (h : runSteps j s = .next t) (k : Nat) :
    runSteps (j + k) s = runSteps k t := by
  induction j generalizing s with
  | zero =>
    cases h
    rw [Nat.zero_add]
  | succ j ih =>
    rw [Nat.succ_add]
    rw [runSteps] at h ⊢
    cases hs : step s with
    | next u =>
      rw [hs] at h
      exact ih h
    | fault r => rw [hs] at h; cases h
    | refused r => rw [hs] at h; cases h

/-- The step that takes a request which decodes to an instruction. -/
theorem step_request {s : State} {r : Request} {rest : List PortEvent} {i : Instr}
    (hs : s.inputs = .request r :: rest) (hr : decode r = .instr i) :
    step s = exec i (s.withInputs rest) := by
  rw [step_cons hs]
  exact takeRequest_instr hr _

@[simp] theorem issue_nil : issue [] = [] := rfl

@[simp] theorem issue_cons (r : Request) (rs : List Request) : issue (r :: rs) = .request r :: issue rs := rfl

@[simp] theorem issue_append (rs qs : List Request) : issue (rs ++ qs) = issue rs ++ issue qs :=
  List.map_append

/-- A step that takes a reset, alone or during a request. -/
theorem step_reset {s : State} {e : PortEvent} {rest : List PortEvent} (hs : s.inputs = e :: rest)
    (he : ∀ r, e ≠ .request r) : step s = .next (resetEngine (s.withInputs rest)) := by
  rw [step_cons hs]
  cases e with
  | request r => exact absurd rfl (he r)
  | reset => rfl
  | resetDuring r => rfl

/-- Everything an event can do: write ACC, and append one response where it is a request, none where it is a reset. -/
theorem takeEvent_next (e : PortEvent) (s : State) :
    ∃ (v : Byte) (rs : List Response), takeEvent e s
      = .next { acc := v, params := s.params, inputs := s.inputs, responses := s.responses ++ rs } := by
  cases e with
  | request r =>
    obtain ⟨v, a, h⟩ := takeRequest_eq r s.params s.acc
    exact ⟨v, [a], h s rfl rfl⟩
  | reset => exact ⟨0x00, [], by simp [takeEvent, resetEngine, State.writeAcc]⟩
  | resetDuring r => exact ⟨0x00, [], by simp [takeEvent, resetEngine, State.writeAcc]⟩

/-- Every step completes, keeps the constants, and only appends to the responses. -/
theorem step_next (s : State) :
    ∃ (v : Byte) (rs : List Response), step s
      = .next { acc := v, params := s.params, inputs := s.inputs.tail, responses := s.responses ++ rs } := by
  cases h : s.inputs with
  | nil =>
    refine ⟨s.acc, [], ?_⟩
    rw [step_nil h, List.append_nil, List.tail_nil, ← h]
  | cons e rest =>
    rw [step_cons h]
    exact takeEvent_next e (s.withInputs rest)

end Sys2Proof.Machine
end

