-- ==== Sys2Proof/Tests/Slice0.lean ====
section
/-! SUPPORT. Tests of the model against 95_test_vectors.md (L1, L2, L3) and the encodings of 30_encoding.md, and a witness for the
hypotheses of each statement that has any.  Where a vector's value depends on the table, the state tested carries the candidate
table of 93_implementation_defined.md I1 (general knowledge there): the model itself fixes no table. -/

namespace Sys2Proof.Tests

open Sys2Proof.Machine

/-! ## States to test on -/

/-- The entries of the candidate table of I1, row by row. -/
def candidateEntries : List Byte :=
  [0x00, 0x07, 0x0E, 0x09, 0x1C, 0x1B, 0x12, 0x15, 0x38, 0x3F, 0x36, 0x31, 0x24, 0x23, 0x2A, 0x2D] ++
  [0x70, 0x77, 0x7E, 0x79, 0x6C, 0x6B, 0x62, 0x65, 0x48, 0x4F, 0x46, 0x41, 0x54, 0x53, 0x5A, 0x5D] ++
  [0xE0, 0xE7, 0xEE, 0xE9, 0xFC, 0xFB, 0xF2, 0xF5, 0xD8, 0xDF, 0xD6, 0xD1, 0xC4, 0xC3, 0xCA, 0xCD] ++
  [0x90, 0x97, 0x9E, 0x99, 0x8C, 0x8B, 0x82, 0x85, 0xA8, 0xAF, 0xA6, 0xA1, 0xB4, 0xB3, 0xBA, 0xBD] ++
  [0xC7, 0xC0, 0xC9, 0xCE, 0xDB, 0xDC, 0xD5, 0xD2, 0xFF, 0xF8, 0xF1, 0xF6, 0xE3, 0xE4, 0xED, 0xEA] ++
  [0xB7, 0xB0, 0xB9, 0xBE, 0xAB, 0xAC, 0xA5, 0xA2, 0x8F, 0x88, 0x81, 0x86, 0x93, 0x94, 0x9D, 0x9A] ++
  [0x27, 0x20, 0x29, 0x2E, 0x3B, 0x3C, 0x35, 0x32, 0x1F, 0x18, 0x11, 0x16, 0x03, 0x04, 0x0D, 0x0A] ++
  [0x57, 0x50, 0x59, 0x5E, 0x4B, 0x4C, 0x45, 0x42, 0x6F, 0x68, 0x61, 0x66, 0x73, 0x74, 0x7D, 0x7A] ++
  [0x89, 0x8E, 0x87, 0x80, 0x95, 0x92, 0x9B, 0x9C, 0xB1, 0xB6, 0xBF, 0xB8, 0xAD, 0xAA, 0xA3, 0xA4] ++
  [0xF9, 0xFE, 0xF7, 0xF0, 0xE5, 0xE2, 0xEB, 0xEC, 0xC1, 0xC6, 0xCF, 0xC8, 0xDD, 0xDA, 0xD3, 0xD4] ++
  [0x69, 0x6E, 0x67, 0x60, 0x75, 0x72, 0x7B, 0x7C, 0x51, 0x56, 0x5F, 0x58, 0x4D, 0x4A, 0x43, 0x44] ++
  [0x19, 0x1E, 0x17, 0x10, 0x05, 0x02, 0x0B, 0x0C, 0x21, 0x26, 0x2F, 0x28, 0x3D, 0x3A, 0x33, 0x34] ++
  [0x4E, 0x49, 0x40, 0x47, 0x52, 0x55, 0x5C, 0x5B, 0x76, 0x71, 0x78, 0x7F, 0x6A, 0x6D, 0x64, 0x63] ++
  [0x3E, 0x39, 0x30, 0x37, 0x22, 0x25, 0x2C, 0x2B, 0x06, 0x01, 0x08, 0x0F, 0x1A, 0x1D, 0x14, 0x13] ++
  [0xAE, 0xA9, 0xA0, 0xA7, 0xB2, 0xB5, 0xBC, 0xBB, 0x96, 0x91, 0x98, 0x9F, 0x8A, 0x8D, 0x84, 0x83] ++
  [0xDE, 0xD9, 0xD0, 0xD7, 0xC2, 0xC5, 0xCC, 0xCB, 0xE6, 0xE1, 0xE8, 0xEF, 0xFA, 0xFD, 0xF4, 0xF3]

/-- The candidate table of I1. -/
def candidate : Vector Byte 256 := ⟨⟨candidateEntries⟩, by decide +kernel⟩

/-- A state with the candidate table. -/
def st (acc : Byte) (verify : Bool) (inputs : List PortEvent) : State :=
  { acc := acc, params := { substTable := candidate, verifyOnDecode := verify }
    inputs := inputs, responses := [] }

/-- The responses returned after a step that completes. -/
def got (o : Host.Outcome State Fault Refusal) : List Response :=
  match o with
  | .next t => t.responses
  | _ => []

/-- ACC after a step that completes. -/
def accOf (o : Host.Outcome State Fault Refusal) : Option Byte :=
  match o with
  | .next t => some t.acc
  | _ => none

/-- A step on one request. -/
def ask (acc : Byte) (verify : Bool) (op : Byte) (o : Operands) : Host.Outcome State Fault Refusal :=
  step (st acc verify [.request { op := op, operands := o }])

/-! ## WellFormed: a DECODE input that a frame row names is not DECODE's own (rule R64) -/

theorem test_wf_refuses_get_status_header : WellFormed (.decode [0x22, 0x21, 0xA1, 0x00]) = false := by decide
theorem test_wf_refuses_flush_header_any_flags : WellFormed (.decode [0x22, 0x21, 0xAD, 0x7F, 0x01]) = false := by
  decide
theorem test_wf_accepts_unnamed_command : WellFormed (.decode [0x22, 0x21, 0xA3, 0x00]) = true := by decide
theorem test_wf_accepts_short_input : WellFormed (.decode [0x22, 0x21, 0xA1]) = true := by decide

/-! ## Decoding: words written from the patterns of spec/opcode_table.json -/

theorem test_decode_crc_clear : decodeTableWord 8 0b00000001 = some .crcClear := by decide
theorem test_decode_crc_step :
    decode { op := 0b00000010, operands := { b := 0x5D } } = .instr (.crcStep 0x5D) := by decide
theorem test_decode_crc_read : decodeTableWord 8 0b00000011 = some .crcRead := by decide
theorem test_decode_checksum :
    decode { op := 0b00010000, operands := { input := [0x01, 0x02] } } = .instr (.checksum [0x01, 0x02]) := by decide
theorem test_decode_encode :
    decode { op := 0b00100000, operands := { cmdId := 0xA2, payload := [0x5D] } }
      = .instr (.encode 0xA2 [0x5D]) := by decide
theorem test_decode_decode :
    decode { op := 0b00100001, operands := { input := [0x22, 0x21, 0x05, 0x00] } }
      = .instr (.decode [0x22, 0x21, 0x05, 0x00]) := by decide
theorem test_decode_pack :
    decode { op := 0b00110000
             operands := { rows := [[true]], rowWidth := 8, bytesPerRow := 1, minLines := 2 } }
      = .instr (.pack [[true]] 8 1 2) := by decide
theorem test_decode_frame_get_status :
    decodeTableWord 32 0b00100010001000011010000100000000
      = some (.frameGetStatus 0x00 [0, 0, 0, 0]) := by decide
theorem test_decode_frame_set_intensity :
    decodeTableWord 32 0b00100010001000011010001001111111
      = some (.frameSetIntensity 0x7F [0, 0, 0, 0]) := by decide
theorem test_decode_frame_print_request :
    decodeTableWord 32 0b00100010001000011010100100000001
      = some (.framePrintRequest 0x01 [0, 0, 0, 0]) := by decide
theorem test_decode_frame_print_complete :
    decodeTableWord 32 0b00100010001000011010101000000000
      = some (.framePrintComplete 0x00 [0, 0, 0, 0]) := by decide
theorem test_decode_frame_flush_data :
    decodeTableWord 32 0b00100010001000011010110111111111
      = some (.frameFlushData 0xFF [0, 0, 0, 0]) := by decide
theorem test_decode_rejects_illegal_op : decode { op := 0x22 } = .illegalOp 0x22 := by decide
theorem test_table_word_runs_after_reset :
    got (step (State.reset.withFetchWord 32 0x2221A100)) = [⟨0x00, 0, .frame ⟨0xA1, 0x00, 0, []⟩⟩] := by decide

/-! ## The checksum unit (L2.1) -/

/-- CK2. -/
theorem test_CK2 : accOf (ask 0x5A false 0x01 {}) = some 0x00 := by decide
/-- CK3. -/
theorem test_CK3 : accOf (ask 0x00 false 0x02 { b := 0x01 }) = some 0x07 := by decide
/-- CK4: no clear, so T[0x5B]. -/
theorem test_CK4 : accOf (ask 0x5A false 0x02 { b := 0x01 }) = some 0x86 := by decide
/-- CK1. -/
theorem test_CK1 : got (exec .crcRead State.reset) = [⟨0x00, 0, .byte 0x00⟩] := by decide
/-- CK14: the check value of "123456789" with the candidate table. -/
theorem test_CK14 :
    got (ask 0x77 false 0x10 { input := [0x31, 0x32, 0x33, 0x34, 0x35, 0x36, 0x37, 0x38, 0x39] })
      = [⟨0x00, 0, .byte 0xF4⟩] := by decide
/-- CK16: ACC is not used and stays. -/
theorem test_CK16 : accOf (ask 0x77 false 0x10 { input := [0x01] }) = some 0x77 := by decide

/-! ## ENCODE and DECODE (L2.2, L2.3, L3) -/

/-- EN6. -/
theorem test_EN6 :
    got (ask 0x00 false 0x20 { cmdId := 0xA9, payload := [0x0A, 0x00, 0x30, 0x00] })
      = [⟨0x00, 0, .bytes [0x22, 0x21, 0xA9, 0x00, 0x04, 0x00, 0x0A, 0x00, 0x30, 0x00, 0x65, 0xFF]⟩] := by decide
/-- EN1: the empty payload, whatever the table (here the free one). -/
theorem test_EN1 :
    got (exec (.encode 0x00 []) State.reset)
      = [⟨0x00, 0, .bytes [0x22, 0x21, 0x00, 0x00, 0x00, 0x00, 0x00, 0xFF]⟩] := by decide
/-- DE9: truncated, info = the length field. -/
theorem test_DE9 :
    got (ask 0x12 true 0x21 { input := [0x22, 0x21, 0xA1, 0x00, 0x02, 0x00, 0x01] })
      = [⟨0x04, 2, .empty⟩] := by decide
/-- DE3: the markers swapped. -/
theorem test_DE3 :
    got (ask 0x12 false 0x21 { input := [0x21, 0x22, 0x00, 0x00, 0x00, 0x00, 0x00, 0xFF] })
      = [⟨0x02, 0, .empty⟩] := by decide
/-- DE10: byte 3 is reported, not checked. -/
theorem test_DE10 :
    got (ask 0x12 false 0x21 { input := [0x22, 0x21, 0xA1, 0x7F, 0x01, 0x00, 0x00] })
      = [⟨0x00, 0, .frame ⟨0xA1, 0x7F, 1, [0x00]⟩⟩] := by decide
/-- DE14: a wrong terminator under verification. -/
theorem test_DE14 :
    got (exec (.frameGetStatus 0x00 [0x01, 0x00, 0x00, 0x00, 0xFE]) (st 0x12 true []))
      = [⟨0x05, 3, .empty⟩] := by decide
/-- P2 step 3: a wrong checksum under verification. -/
theorem test_P2_step3 :
    got (exec (.frameSetIntensity 0x00 [0x01, 0x00, 0x5D, 0x95, 0xFF]) (st 0x5A true []))
      = [⟨0x05, 2, .empty⟩] := by decide
/-- DE19 with verification: a rejecting acknowledgment is decoded like any other. -/
theorem test_DE19 :
    got (ask 0x00 true 0x21 { input := [0x22, 0x21, 0xA9, 0x00, 0x01, 0x00, 0x01, 0x07, 0xFF] })
      = [⟨0x00, 0, .frame ⟨0xA9, 0x00, 1, [0x01]⟩⟩] := by decide
/-- P3 step 9. -/
theorem test_P3_step9 :
    got (ask 0x00 false 0x21 { input := [0x22, 0x21, 0xAA, 0x00, 0x00, 0x00, 0x00, 0xFF] })
      = [⟨0x00, 0, .frame ⟨0xAA, 0x00, 0, []⟩⟩] := by decide
/-- DE5's check on a flush-data header: four bytes are no length field. -/
theorem test_short_flush_header :
    got (exec (.frameFlushData 0x00 [0x01]) (st 0x00 true [])) = [⟨0x03, 5, .empty⟩] := by decide

/-! ## PACK (L2.4) -/

/-- PK13, from its line of text. -/
theorem test_PK13 :
    (assemble "pack [\"0000000100000000\", \"1100000000000011\"], rowWidth=16, bytesPerRow=2, minLines=0").map
        (fun rs => rs.map fun r => got (step (st 0x00 false [.request r])))
      = some [[⟨0x00, 0, .bytes [0x80, 0x00, 0x03, 0xC0]⟩]] := by decide
/-- PK18: the first offending row. -/
theorem test_PK18 :
    got (exec (.pack [List.replicate 16 true, List.replicate 15 true, List.replicate 17 true] 16 2 0)
      (st 0x00 false [])) = [⟨0x08, 1, .empty⟩] := by decide

/-! ## Illegal codes, reset (L2.5, rules R132, R140) -/

/-- X4. -/
theorem test_X4 : got (ask 0x12 false 0x22 {}) = [⟨0x01, 0x22, .empty⟩] := by decide
theorem test_reset_during_a_request :
    step (st 0x12 false [.resetDuring { op := 0x03 }]) = .next (st 0x00 false []) := rfl

/-! ## The assembler (rules R62, R63) -/

theorem test_asm_print_request :
    assemble "frame.print_request 266, 0x30, 1"
      = some [{ op := 0x20, operands := { cmdId := 0xA9, payload := [0x0A, 0x01, 0x30, 0x01] } }] := by decide
theorem test_asm_checksum_stream :
    parseLine "checksum.stream [1, 0xff]" = some (.checksumStream [0x01, 0xFF]) := by decide

end Sys2Proof.Tests
end

