-- ==== Sys2Proof/Tests/Witnesses.lean ====
section
/-! SUPPORT. For every statement of Certificates/Slice0/Obligations.lean that has hypotheses, a concrete state and operands that
meet all of them together; one witness for each clause, at boundary values of the clause's range. -/

namespace Sys2Proof.Tests

open Sys2Proof.Machine

/-- A linear table: every byte maps to itself. -/
def identityTable : Vector Byte 256 := Vector.ofFn fun i => BitVec.ofNat 8 i.val

theorem tableAt_identityTable (i : Byte) : tableAt identityTable i = i := by
  simp [tableAt, identityTable]

/-- A state with the linear table. -/
def linearState : State :=
  { acc := 0x12, params := { substTable := identityTable, verifyOnDecode := false }, inputs := [], responses := [] }

/-- A state with both modes of the candidate instance and a response already returned. -/
def busy (acc : Byte) (verify : Bool) (inputs : List PortEvent) : State :=
  { st acc verify inputs with responses := [⟨0x02, 0, .empty⟩] }

/-- CRC_READ, then DECODE of an input too short for a header. -/
def readThenBadDecode : List Request := [{ op := 0x03 }, { op := 0x21, operands := { input := [0x22] } }]

/-! ## Checksum unit -/

theorem witness_CrcStepFoldsOneByte :
    (st 0x00 false (issue ([0x01, 0x02].map fun b => encode (.crcStep b)) ++ [.reset])).acc = 0x00
      ∧ (st 0x00 false (issue ([0x01, 0x02].map fun b => encode (.crcStep b)) ++ [.reset])).inputs
          = issue ([0x01, 0x02].map fun b => encode (.crcStep b)) ++ [.reset] := ⟨rfl, rfl⟩

theorem witness_ByteSerialChecksumEqualsChecksum_clear :
    (st 0x5A true (issue ((Instr.crcClear :: ([0xA1].map Instr.crcStep ++ [Instr.crcRead])).map encode) ++ [])).inputs
      = issue ((Instr.crcClear :: ([0xA1].map Instr.crcStep ++ [Instr.crcRead])).map encode) ++ [] := rfl

theorem witness_ByteSerialChecksumEqualsChecksum_continue :
    (st 0x5A true (issue (([0xA1].map Instr.crcStep ++ [Instr.crcRead]).map encode) ++ [])).inputs
      = issue (([0xA1].map Instr.crcStep ++ [Instr.crcRead]).map encode) ++ [] := rfl

theorem witness_LinearTableGivesLinearChecksum :
    tableAt linearState.params.substTable 0x00 = 0x00
      ∧ (∀ a b, tableAt linearState.params.substTable (a ^^^ b)
          = tableAt linearState.params.substTable a ^^^ tableAt linearState.params.substTable b)
      ∧ ([0x01, 0x02] : List Byte).length = ([0xF0, 0x0F] : List Byte).length := by
  refine ⟨tableAt_identityTable _, fun a b => ?_, rfl⟩
  simp only [linearState, tableAt_identityTable]

/-- The candidate table of I1 is the table of the generator 0x07, most significant bit first. -/
theorem witness_GeneratorTableGivesLinearChecksum_msb :
    IsGeneratorTable (st 0x12 false []).params.substTable 0x07
      ∧ ([0x01, 0x02] : List Byte).length = ([0xF0, 0x0F] : List Byte).length := by
  refine ⟨.inl ?_, rfl⟩
  decide +kernel

/-- The table of the generator 0x8C, least significant bit first. -/
def reflectedTable : Vector Byte 256 := Vector.ofFn fun i => generatorByte reflectedBit 0x8C (BitVec.ofNat 8 i.val)

theorem witness_GeneratorTableGivesLinearChecksum_lsb :
    IsGeneratorTable
      ({ linearState with params := { substTable := reflectedTable, verifyOnDecode := true } } : State).params.substTable
      0x8C := by
  refine .inr fun i => ?_
  simp [tableAt, reflectedTable]

theorem witness_TableIsReadOnly :
    ∃ t, runSteps 2 (st 0x12 false [.reset, .request { op := 0x02, operands := { b := 0x01 } }]) = .next t :=
  ⟨_, rfl⟩

/-! ## ENCODE -/

theorem witness_EncodeEmitsTheFrame :
    (List.replicate 65535 (0x00 : Byte)).length ≤ 65535 ∧ 65535 < (List.replicate 65536 (0x00 : Byte)).length := by
  constructor
  · rw [List.length_replicate]
  · rw [List.length_replicate]; omega

theorem witness_EncodedFrameKeepsItsForm :
    Answers (.encode 0x22 [0x22, 0x21, 0xFF]) (busy 0x12 true []) 0x00 0
      (.bytes (frameBytes candidate 0x22 [0x22, 0x21, 0xFF])) := rfl

theorem witness_EncodeIgnoresAccAndHeader :
    (busy 0x12 true []).params = (st 0x77 true [.reset]).params ∧ ([0x00] : List Byte).length ≤ 65535 :=
  ⟨rfl, by decide⟩

/-! ## DECODE, clause by clause -/

theorem witness_DecodeAnswersEveryInput_marker :
    (∀ rest, ([] : List Byte) ≠ 0x22 :: 0x21 :: rest) ∧ (∀ rest, ([0x22] : List Byte) ≠ 0x22 :: 0x21 :: rest)
      ∧ (∀ rest, ([0x22, 0x20, 0x00] : List Byte) ≠ 0x22 :: 0x21 :: rest)
      ∧ ∀ rest, ([0x00, 0x22, 0x21] : List Byte) ≠ 0x22 :: 0x21 :: rest := by
  refine ⟨?_, ?_, ?_, ?_⟩ <;> intro rest h <;> simp at h

theorem witness_DecodeAnswersEveryInput_short :
    ([] : List Byte).length < 4 ∧ ([0xA1, 0x00, 0x01] : List Byte).length < 4 := by decide

theorem witness_DecodeAnswersEveryInput_truncated :
    ([] : List Byte).length < (0x01 : Byte).toNat + 256 * (0x00 : Byte).toNat
      ∧ ([0x01] : List Byte).length < (0x02 : Byte).toNat + 256 * (0x00 : Byte).toNat := by decide

theorem witness_DecodeAnswersEveryInput_unverified :
    ([] : List Byte).length = (0x00 : Byte).toNat + 256 * (0x00 : Byte).toNat
      ∧ (st 0x12 false []).params.verifyOnDecode = false := by decide

theorem witness_DecodeAnswersEveryInput_no_trailer :
    ([0x00] : List Byte).length = (0x01 : Byte).toNat + 256 * (0x00 : Byte).toNat
      ∧ (st 0x12 true []).params.verifyOnDecode = true ∧ ([0x00] : List Byte).length < 2 := by decide

theorem witness_DecodeAnswersEveryInput_wrong_checksum :
    ([0x5D] : List Byte).length = (0x01 : Byte).toNat + 256 * (0x00 : Byte).toNat
      ∧ (st 0x12 true []).params.verifyOnDecode = true
      ∧ (0x95 : Byte) ≠ checksum (st 0x12 true []).params.substTable [0x5D] := by decide

theorem witness_DecodeAnswersEveryInput_wrong_terminator :
    ([0x5D] : List Byte).length = (0x01 : Byte).toNat + 256 * (0x00 : Byte).toNat
      ∧ (st 0x12 true []).params.verifyOnDecode = true
      ∧ (0x94 : Byte) = checksum (st 0x12 true []).params.substTable [0x5D] ∧ (0xFE : Byte) ≠ 0xFF := by decide

theorem witness_DecodeAnswersEveryInput_verified :
    ([0x5D] : List Byte).length = (0x01 : Byte).toNat + 256 * (0x00 : Byte).toNat
      ∧ (st 0x12 true []).params.verifyOnDecode = true
      ∧ (0x94 : Byte) = checksum (st 0x12 true []).params.substTable [0x5D] ∧ (0xFF : Byte) = 0xFF := by decide

theorem witness_DecodeRecoversWhatEncodeWrote :
    (List.replicate 65535 (0x00 : Byte)).length ≤ 65535
      ∧ (busy 0x77 true []).params = (st 0x12 true []).params := by
  constructor
  · rw [List.length_replicate]
  · rfl

/-- An accepted input, with verification off and with it on. -/
theorem witness_accepted_input :
    Answers (.decode [0x22, 0x21, 0xA2, 0x00, 0x01, 0x00, 0x5D, 0x94, 0xFF]) (busy 0x12 true []) 0x00 0
        (.frame ⟨0xA2, 0x00, 1, [0x5D]⟩)
      ∧ Answers (.decode [0x22, 0x21, 0xA2, 0x7F, 0x01, 0x00, 0x5D]) (busy 0x12 false []) 0x00 0
        (.frame ⟨0xA2, 0x7F, 1, [0x5D]⟩) := ⟨rfl, rfl⟩

theorem witness_BytesAfterTheFrameAreIgnored :
    Answers (.decode [0x22, 0x21, 0xA2, 0x00, 0x01, 0x00, 0x5D, 0x94, 0xFF]) (busy 0x12 true []) 0x00 0
        (.frame ⟨0xA2, 0x00, 1, [0x5D]⟩)
      ∧ (busy 0x12 true []).params.verifyOnDecode = true
      ∧ Answers (.decode [0x22, 0x21, 0xA2, 0x7F, 0x01, 0x00, 0x5D]) (busy 0x12 false []) 0x00 0
        (.frame ⟨0xA2, 0x7F, 1, [0x5D]⟩)
      ∧ (busy 0x12 false []).params.verifyOnDecode = false :=
  ⟨witness_accepted_input.1, rfl, witness_accepted_input.2, rfl⟩

theorem witness_VerifiedFrameSatisfiesTheInvariant :
    (busy 0x12 true []).params.verifyOnDecode = true
      ∧ Answers (.decode [0x22, 0x21, 0xA2, 0x00, 0x01, 0x00, 0x5D, 0x94, 0xFF]) (busy 0x12 true []) 0x00 0
        (.frame ⟨0xA2, 0x00, 1, [0x5D]⟩) := ⟨rfl, witness_accepted_input.1⟩

theorem witness_ReencodingGivesBackEncodedFramesOnly :
    Answers (.decode [0x22, 0x21, 0xA2, 0x00, 0x01, 0x00, 0x5D, 0x94, 0xFF]) (busy 0x12 true []) 0x00 0
        (.frame ⟨0xA2, 0x00, 1, [0x5D]⟩)
      ∧ (busy 0x12 false []).params.verifyOnDecode = false
      ∧ ([0x5D] : List Byte).length = (0x01 : Byte).toNat + 256 * (0x00 : Byte).toNat :=
  ⟨witness_accepted_input.1, rfl, rfl⟩

theorem witness_HeaderIsNotCoveredByVerification :
    Answers (.decode (0x22 :: 0x21 :: 0xA2 :: 0x00 :: [0x01, 0x00, 0x5D, 0x94, 0xFF])) (busy 0x12 true []) 0x00 0
      (.frame ⟨0xA2, 0x00, 1, [0x5D]⟩) := witness_accepted_input.1

theorem witness_LengthFieldIsLittleEndian : (65535 : Nat) ≤ 65535 ∧ (0 : Nat) ≤ 65535 := by decide

/-! ## Frames the table names -/

theorem witness_FrameRowsAreDecodedTheSameWay :
    (0xA0 : Byte) ∉ ([0xA1, 0xA2, 0xA9, 0xAA, 0xAD] : List Byte)
      ∧ (0xAB : Byte) ∉ ([0xA1, 0xA2, 0xA9, 0xAA, 0xAD] : List Byte) := by decide

theorem witness_NamedFramesDecodeToTheirFields :
    ([0x5D] : List Byte).length = (0x01 : Byte).toNat + 256 * (0x00 : Byte).toNat
      ∧ ((st 0x12 true []).params.verifyOnDecode = true →
          ∃ after, ([0x94, 0xFF] : List Byte)
            = checksum (st 0x12 true []).params.substTable [0x5D] :: 0xFF :: after) :=
  ⟨by decide, fun _ => ⟨[], by decide⟩⟩

/-! ## PACK, clause by clause -/

theorem witness_PackAnswersEveryBitmap_geometry : (10 : Nat) ≠ 8 * 2 := by decide

theorem witness_PackAnswersEveryBitmap_row_width :
    (8 : Nat) = 8 * 1 ∧ [List.replicate 8 true, List.replicate 7 true][1]? = some (List.replicate 7 true)
      ∧ (List.replicate 7 true).length ≠ 8
      ∧ ∀ (q : Nat) (row' : List Bool), q < 1 →
          [List.replicate 8 true, List.replicate 7 true][q]? = some row' → row'.length = 8 := by
  refine ⟨rfl, rfl, by decide, fun q row' hq h => ?_⟩
  obtain rfl : q = 0 := by omega
  cases h
  rfl

theorem witness_PackAnswersEveryBitmap_ok :
    (8 : Nat) = 8 * 1 ∧ (∀ row ∈ [List.replicate 8 true], row.length = 8)
      ∧ [List.replicate 8 true][0]? = some (List.replicate 8 true) ∧ 0 < 1 := by decide

/-- The first and the last byte of the padding of a buffer PACK returns. -/
theorem witness_PackAnswersEveryBitmap_padding :
    (∀ row ∈ [List.replicate 8 true], row.length = 8)
      ∧ Answers (.pack [List.replicate 8 true] 8 1 3) (busy 0x12 false []) 0x00 0 (.bytes [0xFF, 0x00, 0x00])
      ∧ [List.replicate 8 true].length * 1 ≤ 1 ∧ 1 < ([0xFF, 0x00, 0x00] : List Byte).length
      ∧ [List.replicate 8 true].length * 1 ≤ 2 ∧ 2 < ([0xFF, 0x00, 0x00] : List Byte).length :=
  ⟨by decide, rfl, by decide⟩

/-- PK14. -/
theorem witness_PackedPixelReadsBack :
    Answers (.pack [[true, false, true, true, false, false, true, false]] 8 1 1) (busy 0x12 false []) 0x00 0
        (.bytes [0x4D])
      ∧ [[true, false, true, true, false, false, true, false]][0]?
          = some [true, false, true, true, false, false, true, false]
      ∧ 7 < 8 := ⟨rfl, rfl, by decide⟩

theorem witness_PackedByteIsTheSumOfItsPixels :
    Answers (.pack [[true, false, true, true, false, false, true, false]] 8 1 1) (busy 0x12 false []) 0x00 0
        (.bytes [0x4D])
      ∧ [[true, false, true, true, false, false, true, false]][0]?
          = some [true, false, true, true, false, false, true, false]
      ∧ 0 < 1 := ⟨rfl, rfl, by decide⟩

theorem witness_PackWithDefaultOperands :
    ∀ row ∈ [List.replicate 384 false, List.replicate 384 true], row.length = 384 := by
  intro row h
  simp only [List.mem_cons, List.not_mem_nil, or_false] at h
  rcases h with rfl | rfl <;> exact List.length_replicate

/-! ## Decoding requests -/

theorem witness_DecodeOfEncodeIsTheInstruction :
    WellFormed (.pack [[true]] 8 1 2) = true ∧ WellFormed (.decode [0x22, 0x21, 0xA3, 0x00]) = true := by decide

theorem witness_EncodeOfDecodeIsTheRequest :
    decode { op := 0x20, operands := { cmdId := 0xA2, payload := [0x5D] } } = .instr (.encode 0xA2 [0x5D])
      ∧ ({ op := 0x20, operands := { cmdId := 0xA2, payload := [0x5D] } } : Request).wf = true := by decide

theorem witness_OperationCodesSelectTheirOperations :
    (0x20 + 0x02 : Byte) ∉ ([0x01, 0x02, 0x03, 0x10, 0x20, 0x21, 0x30] : List Byte) := by decide

theorem witness_IllegalOpIsAnsweredErrOp :
    (0x00 : Byte) ∉ ([0x01, 0x02, 0x03, 0x10, 0x20, 0x21, 0x30] : List Byte)
      ∧ (0x04 : Byte) ∉ ([0x01, 0x02, 0x03, 0x10, 0x20, 0x21, 0x30] : List Byte)
      ∧ (0xFF : Byte) ∉ ([0x01, 0x02, 0x03, 0x10, 0x20, 0x21, 0x30] : List Byte)
      ∧ (busy 0x12 false [.request { op := 0x04 }]).inputs = .request { op := 0x04 } :: [] := by decide

/-! ## The step -/

theorem witness_StepRunsTheDecodedInstruction :
    (busy 0x12 false [.request { op := 0x03 }]).inputs = .request { op := 0x03 } :: []
      ∧ decode { op := 0x03 } = .instr .crcRead
      ∧ decodeTableWord 32 0x2221AD00 = some (.frameFlushData 0x00 [0, 0, 0, 0]) := by decide

theorem witness_IdleStepChangesNothing : (busy 0x12 true []).inputs = [] := rfl

theorem witness_ResetLeavesTheResetState_reset :
    (busy 0x12 true (.reset :: issue ([0x01, 0x02].map fun b => encode (.crcStep b)))).inputs
        = .reset :: (issue ([0x01, 0x02].map fun b => encode (.crcStep b)) ++ [])
      ∧ (PortEvent.reset = .reset ∨ ∃ r, PortEvent.reset = .resetDuring r) :=
  ⟨rfl, .inl rfl⟩

theorem witness_ResetLeavesTheResetState_during :
    (busy 0x12 true (.resetDuring { op := 0x03 } :: issue ([0x01].map fun b => encode (.crcStep b)))).inputs
        = .resetDuring { op := 0x03 } :: (issue ([0x01].map fun b => encode (.crcStep b)) ++ [])
      ∧ (PortEvent.resetDuring { op := 0x03 } = .reset
          ∨ ∃ r, PortEvent.resetDuring { op := 0x03 } = .resetDuring r) :=
  ⟨rfl, .inr ⟨_, rfl⟩⟩

/-! ## Frames of the instructions, and whole-machine rules -/

theorem witness_AccIsReadAndWrittenByItsOperationsOnly :
    (∃ t, exec .crcClear (busy 0x12 true []) = .next t) ∧ (∃ t, exec (.crcStep 0x01) (busy 0x12 true []) = .next t)
      ∧ (∃ t, Instr.checksum [0x01] ≠ .crcClear ∧ (∀ b, Instr.checksum [0x01] ≠ .crcStep b)
          ∧ exec (.checksum [0x01]) (busy 0x12 true []) = .next t)
      ∧ ∃ t, Instr.crcStep 0x01 ≠ .crcRead ∧ exec (.crcStep 0x01) (busy 0x12 true []) = .next t :=
  ⟨⟨_, rfl⟩, ⟨_, rfl⟩, ⟨_, by decide, fun _ h => (by cases h), rfl⟩, ⟨_, by decide, rfl⟩⟩

theorem witness_ExecChangesOnlyAccAndAppendsOneResponse :
    ∃ t, exec (.crcStep 0x01) (busy 0x12 true [.reset]) = .next t := ⟨_, rfl⟩

theorem witness_ErrorChangesNoState :
    (busy 0x12 true [.request { op := 0x00 }]).inputs = .request { op := 0x00 } :: []
      ∧ ∃ t, step (busy 0x12 true [.request { op := 0x00 }]) = .next t
        ∧ t.responses = (busy 0x12 true [.request { op := 0x00 }]).responses ++ [⟨0x01, 0, .empty⟩]
        ∧ (⟨0x01, 0, .empty⟩ : Response).status ≠ 0x00 :=
  ⟨rfl, _, rfl, rfl, by decide⟩

theorem witness_ErrorsAreNotSticky :
    (busy 0x12 true [.request { op := 0x00 }, .request { op := 0x03 }]).inputs
        = .request { op := 0x00 } :: .request { op := 0x03 } :: []
      ∧ ∃ t, step (busy 0x12 true [.request { op := 0x00 }, .request { op := 0x03 }]) = .next t
        ∧ t.responses
            = (busy 0x12 true [.request { op := 0x00 }, .request { op := 0x03 }]).responses
              ++ [⟨0x01, 0, .empty⟩]
        ∧ (⟨0x01, 0, .empty⟩ : Response).status ≠ 0x00 :=
  ⟨rfl, _, rfl, rfl, by decide⟩

theorem witness_AnswersDependOnAccAndConstantsOnly :
    (busy 0x12 true [.request { op := 0x03 }, .reset]).acc = (st 0x12 true [.request { op := 0x03 }]).acc
      ∧ (busy 0x12 true [.request { op := 0x03 }, .reset]).params = (st 0x12 true [.request { op := 0x03 }]).params
      ∧ (busy 0x12 true [.request { op := 0x03 }, .reset]).inputs = .request { op := 0x03 } :: [.reset]
      ∧ (st 0x12 true [.request { op := 0x03 }]).inputs = .request { op := 0x03 } :: [] := ⟨rfl, rfl, rfl, rfl⟩

theorem witness_StatelessOperationsRepeat :
    Instr.encode 0xA1 [] ≠ .crcClear ∧ (∀ b, Instr.encode 0xA1 [] ≠ .crcStep b) ∧ Instr.encode 0xA1 [] ≠ .crcRead
      ∧ (busy 0x12 true []).params = (st 0x77 true []).params :=
  ⟨by decide, fun _ h => (by cases h), by decide, rfl⟩

theorem witness_StepKeepsTheFormOfResponses :
    (busy 0x12 true (issue readThenBadDecode)).responsesWf = true
      ∧ ∃ t, step (busy 0x12 true (issue readThenBadDecode)) = .next t := ⟨by decide, _, rfl⟩

/-! ## The assembler -/

theorem witness_PseudoInstructionsExpand :
    (65535 : Nat) ≤ 65535
      ∧ (st 0x5A false (issue (AsmLine.checksumStream [0x01]).requests ++ [.reset])).inputs
          = issue (AsmLine.checksumStream [0x01]).requests ++ [.reset] := ⟨by decide, rfl⟩

theorem witness_AssemblerReadsEveryLine :
    (AsmLine.framePrintRequest 65535 0x30 0x01).wf = true
      ∧ "frame.print_request 65535, 0x30, 0x01".toList = (AsmLine.framePrintRequest 65535 0x30 0x01).chars
      ∧ "pack [101, []], bytesPerRow=9".toList
          = (AsmLine.pack [[true, false, true], []] none (some 9) none).chars := by decide

theorem witness_AssemblerReadsEveryLine_rep :
    "pack rep(10, fill(384, 0)), minLines=0".toList
      = lineChars "pack" ((RowsForm.rep 10 (.fill 384 false)).tokens ++ packOperandsTokens none none (some 0)) := by
  decide

theorem witness_AssemblerReadsEveryLine_list :
    "pack [\"10\", fill(2, 1), 01, []], rowWidth=16".toList
      = lineChars "pack"
          ((RowsForm.list [.quoted [true, false], .fill 2 true, .bits [false, true], .bits []]).tokens
            ++ packOperandsTokens (some 16) none none) := by decide

end Sys2Proof.Tests
end

section
/-! PROOFS. The state family (10_state.md): the substitution table is constant (R23), who reads and writes ACC (R22), and
that nothing besides ACC and the constants decides an answer (R30). -/

namespace Sys2Proof.Machine

/-! ## The constants -/

/-- No event changes the constants. -/
theorem step_params {s t : State} (h : step s = .next t) : t.params = s.params := by
  obtain ⟨v, rs, hstep⟩ := step_next s
  rw [hstep] at h
  cases h
  rfl

/-- The constants are an invariant of runs of every length. -/
theorem runSteps_params {k : Nat} {s t : State} (h : runSteps k s = .next t) : t.params = s.params := by
  induction k generalizing s with
  | zero =>
    cases h
    rfl
  | succ k ih =>
    obtain ⟨v, rs, hstep⟩ := step_next s
    rw [runSteps_succ hstep] at h
    exact (ih h).trans (step_params hstep)

/-- Settles O9: the table is one of the constants, which every run keeps, and an 8-bit index is always in range of it. -/
theorem tableIsReadOnly : Obligations.TableIsReadOnly := by
  intro k s t h i
  rw [runSteps_params h]
  exact tableAt_eq_getElem? s.params.substTable i

/-! ## ACC -/

/-- What an instruction that completes leaves in ACC. -/
theorem exec_acc {i : Instr} {s t : State} (h : exec i s = .next t) : t.acc = accAfter i s := by
  rw [exec_next h, State.respond_acc, State.writeAcc_acc]

/-- The responses after an instruction that completes. -/
theorem exec_responses {i : Instr} {s t : State} (h : exec i s = .next t) :
    t.responses = s.responses ++ [responseTo i s.params s.acc] := by
  rw [exec_next h, State.respond_responses, State.writeAcc_responses]

/-- CRC_READ alone reads ACC for its response. -/
theorem responseTo_acc_irrelevant {i : Instr} (hr : i ≠ .crcRead) (p : Params) (v w : Byte) :
    responseTo i p v = responseTo i p w := by
  cases i with
  | crcRead => exact absurd rfl hr
  | _ => rfl

/-- Settles O35: the writers by what `accAfter` says of them, the readers by what `responseTo` reads of ACC. -/
theorem accIsReadAndWrittenByItsOperationsOnly : Obligations.AccIsReadAndWrittenByItsOperationsOnly := by
  refine ⟨fun s t h => exec_acc h, fun b s t h => exec_acc h, fun i s t hc hs h => ?_,
    fun i s t v hr h => ?_, State.reset_acc⟩
  · rw [exec_acc h, accAfter_eq_acc hc hs]
  · have hv := exec_eq i (s.writeAcc v)
    refine ⟨_, hv, ?_⟩
    rw [exec_responses hv, exec_responses h, State.writeAcc_responses, State.writeAcc_params,
      responseTo_acc_irrelevant hr s.params _ s.acc]

/-! ## No hidden state -/

/-- A step that takes a request, whether its code is legal or not. -/
theorem step_takeRequest {s : State} {r : Request} {rest : List PortEvent} (hs : s.inputs = .request r :: rest) :
    step s = takeRequest r (s.withInputs rest) :=
  step_cons hs

/-- Settles O39: by `takeRequest_eq` the ACC left and the response are functions of the request, the constants and ACC,
which the two states share; neither the history nor the events to come enter. -/
theorem answersDependOnAccAndConstantsOnly : Obligations.AnswersDependOnAccAndConstantsOnly := by
  intro s u r restS restU hacc hparams hs hu
  obtain ⟨v, answer, htake⟩ := takeRequest_eq r s.params s.acc
  refine ⟨v, answer, ?_, ?_⟩
  · rw [step_takeRequest hs]
    exact htake (s.withInputs restS) rfl rfl
  · rw [step_takeRequest hu]
    exact htake (u.withInputs restU) hparams.symm hacc.symm

end Sys2Proof.Machine
end

section
/-! PROOFS. The memory family (20_memory.md): the length field is little-endian in both directions (R36), and each pixel of a
bitmap is read back from the buffer PACK returns (R37, R103). -/

namespace Sys2Proof.Machine

/-! ## The length field -/

/-- The mask of rule R36 keeps every bit of a byte. -/
theorem byte_and_0xFF (b : Byte) : b &&& 0xFF = b :=
  BitVec.and_allOnes

/-- What MemWrite wrote of a length in 0 .. 65535, MemRead gives back. -/
theorem memRead2_memWrite2 {n : Nat} (h : n ≤ 65535) : (memRead2 (memWrite2 n) 0).toNat = n := by
  rw [memRead2_toNat]
  exact lengthBytes_toNat h

/-- Settles O19: reading by `memRead2_toNat`, reading back by `memRead2_memWrite2`; the masks of the rule change no byte. -/
theorem lengthFieldIsLittleEndian : Obligations.LengthFieldIsLittleEndian := by
  refine ⟨fun b0 b1 b2 b3 lo hi rest => memRead2_toNat _ 4, fun n hn => ⟨?_, memRead2_memWrite2 hn⟩⟩
  rw [byte_and_0xFF, byte_and_0xFF, memWrite2]

/-! ## What an answer says -/

/-- An instruction answers with a response where that is its response and it leaves ACC as it was. -/
theorem answers_iff {i : Instr} {s : State} {status : Byte} {info : Nat} {data : ResponseData} :
    Answers i s status info data ↔
      accAfter i s = s.acc ∧ responseTo i s.params s.acc = { status := status, info := info, data := data } := by
  rw [Answers, exec_eq]
  constructor
  · intro h
    injection h with h
    have hacc := congrArg State.acc h
    have hresponses := congrArg State.responses h
    simp only [State.respond_acc, State.writeAcc_acc, State.respond_responses, State.writeAcc_responses] at hacc hresponses
    exact ⟨hacc, List.singleton_inj.1 (List.append_cancel_left hresponses)⟩
  · rintro ⟨hacc, hresponse⟩
    rw [hacc, State.writeAcc_self, hresponse]
    rfl

/-! ## Pixels of a packed buffer -/

/-- PACK returns a buffer where both checks pass, and then the packed rows with their padding. -/
theorem packImage_eq_ok {rows : List (List Bool)} {w b m : Nat} {out : List Byte}
    (h : packImage rows w b m = okResponse (.bytes out)) :
    w = 8 * b ∧ (∀ row ∈ rows, row.length = w) ∧ out = padTo (m * b) (packRows b rows) := by
  unfold packImage at h
  split_ifs at h with hw
  · cases h
  · split at h
    · cases h
    · next hrows =>
      cases h
      exact ⟨not_not.1 hw, firstBadRow_eq_none.1 hrows, rfl⟩

/-- Byte j of row r lies within the packed rows, before any padding. -/
theorem packRows_index_lt {rows : List (List Bool)} {row : List Bool} {r j b : Nat}
    (hr : rows[r]? = some row) (hj : j < b) : r * b + j < (packRows b rows).length :=
  (List.getElem?_eq_some_iff.1 (packRows_getElem? hr hj)).1

/-- Pixel x of a row is bit x mod 8 of the row's byte x div 8. -/
theorem packByte_pixel {row : List Bool} {x : Nat} (h : x < row.length) :
    row[x]? = some ((packByte row (x / 8)).getLsbD (x % 8)) := by
  rw [packByte_getLsbD row (x / 8) (Nat.mod_lt x (by decide)), Nat.div_add_mod, List.getD_eq_getElem?_getD,
    List.getElem?_eq_getElem h, Option.getD_some]

/-- A bit of a byte by shift and mask. -/
theorem getLsbD_eq_shift_and (byte : Byte) (k : Nat) :
    byte.getLsbD k = decide ((byte.toNat >>> k) &&& 1 = 1) := by
  rw [Nat.and_one_is_mod, Nat.shiftRight_eq_div_pow]
  exact Nat.testBit_eq_decide_div_mod_eq

/-- Settles O23: a buffer PACK returns is the packed rows and their padding, the pixel's byte lies in the packed rows, and
by `packByte_pixel` it holds the pixel. -/
theorem packedPixelReadsBack : Obligations.PackedPixelReadsBack := by
  intro s rows w b m out hanswer r x row hr hx
  obtain ⟨hw, hrows, rfl⟩ := packImage_eq_ok (answers_iff.1 hanswer).2
  have hlength : row.length = w := hrows row (List.mem_of_getElem? hr)
  have hj : x / 8 < b := Nat.div_lt_of_lt_mul (hw ▸ hx)
  refine ⟨packByte row (x / 8), ?_, ?_⟩
  · rw [padTo_getElem?_left (packRows_index_lt hr hj), packRows_getElem? hr hj]
  · rw [← getLsbD_eq_shift_and]
    exact packByte_pixel (hlength ▸ hx)

end Sys2Proof.Machine
end

section
/-! PROOFS. The encoding family (30_encoding.md): the answer to an illegal operation code (R60), and the requests that the
pseudo-instructions expand to, with the run of the checksum stream (R63). -/

namespace Sys2Proof

/-! ## Illegal operation codes -/

/-- Rule R59 lists the codes of the seven operations. -/
theorem operation_code_mem (o : Operation) :
    o.code ∈ ([0x01, 0x02, 0x03, 0x10, 0x20, 0x21, 0x30] : List Byte) := by
  cases o <;> decide

/-- A byte outside the list of rule R59 selects no operation. -/
theorem operationOf_eq_none {op : Byte} (h : op ∉ ([0x01, 0x02, 0x03, 0x10, 0x20, 0x21, 0x30] : List Byte)) :
    operationOf op = none := by
  cases ho : operationOf op with
  | none => rfl
  | some o => exact absurd (operationOf_eq_some ho ▸ operation_code_mem o) h

/-- The operands of a request whose code selects no operation are not looked at (rule R124). -/
theorem decode_illegalOp {r : Request} (h : operationOf r.op = none) : decode r = .illegalOp r.op := by
  rw [decode, h]

end Sys2Proof

namespace Sys2Proof.Machine

/-- Settles O30: the code selects no operation, so the request is answered ERR_OP from the state it was taken in. -/
theorem illegalOpIsAnsweredErrOp : Obligations.IllegalOpIsAnsweredErrOp := by
  intro s op o rest hop hs
  have hdecode : decode { op := op, operands := o } = .illegalOp op := decode_illegalOp (operationOf_eq_none hop)
  rw [step_takeRequest hs, takeRequest_illegalOp hdecode]
  rfl

/-! ## Runs of checksum requests -/

/-- CRC_CLEAR taken from the port. -/
theorem step_crcClear {s : State} {rest : List PortEvent} (hs : s.inputs = .request (encode .crcClear) :: rest) :
    step s = .next (((s.withInputs rest).writeAcc 0x00).respond (okResponse .empty)) := by
  rw [step_request hs (i := .crcClear) rfl, exec_eq]
  rfl

/-- CRC_STEP taken from the port. -/
theorem step_crcStep {s : State} {b : Byte} {rest : List PortEvent}
    (hs : s.inputs = .request (encode (.crcStep b)) :: rest) :
    step s = .next (((s.withInputs rest).writeAcc (crcUpdate s.params.substTable s.acc b)).respond
      (okResponse .empty)) := by
  rw [step_request hs (i := .crcStep b) rfl, exec_eq]
  rfl

/-- CRC_READ taken from the port. -/
theorem step_crcRead {s : State} {rest : List PortEvent} (hs : s.inputs = .request (encode .crcRead) :: rest) :
    step s = .next ((s.withInputs rest).respond (okResponse (.byte s.acc))) := by
  rw [step_request hs (i := .crcRead) rfl, exec_eq]
  rfl

/-- A CRC_STEP for each byte folds the bytes into ACC, and each is answered OK with no data. -/
theorem runSteps_crcSteps {s : State} {bs : List Byte} {rest : List PortEvent}
    (hs : s.inputs = issue (bs.map fun b => encode (.crcStep b)) ++ rest) :
    runSteps bs.length s
      = .next
          { acc := crcFold s.params.substTable s.acc bs
            params := s.params
            inputs := rest
            responses := s.responses ++ List.replicate bs.length (okResponse .empty) } := by
  induction bs generalizing s with
  | nil =>
    have hrest : s.inputs = rest := hs
    simp [← hrest]
  | cons b bs ih =>
    rw [List.length_cons, runSteps_succ (step_crcStep hs), ih rfl]
    simp [List.replicate_succ]

/-- CRC_STEPs and then CRC_READ, which returns the fold. -/
theorem runSteps_crcStepsRead {s : State} {bs : List Byte} {rest : List PortEvent}
    (hs : s.inputs = issue ((bs.map fun b => encode (.crcStep b)) ++ [encode .crcRead]) ++ rest) :
    runSteps (bs.length + 1) s
      = .next
          { acc := crcFold s.params.substTable s.acc bs
            params := s.params
            inputs := rest
            responses := s.responses ++ List.replicate bs.length (okResponse .empty)
              ++ [okResponse (.byte (crcFold s.params.substTable s.acc bs))] } := by
  rw [issue_append, List.append_assoc] at hs
  rw [runSteps_add (runSteps_crcSteps hs), runSteps_succ (step_crcRead rfl)]
  rfl

/-- CRC_CLEAR, CRC_STEPs and then CRC_READ: from whatever ACC the run starts, it returns the checksum and leaves it in ACC. -/
theorem runSteps_crcStream {s : State} {bs : List Byte} {rest : List PortEvent}
    (hs : s.inputs
      = issue (encode .crcClear :: ((bs.map fun b => encode (.crcStep b)) ++ [encode .crcRead])) ++ rest) :
    runSteps (bs.length + 2) s
      = .next
          { acc := checksum s.params.substTable bs
            params := s.params
            inputs := rest
            responses := s.responses ++ List.replicate (bs.length + 1) (okResponse .empty)
              ++ [okResponse (.byte (checksum s.params.substTable bs))] } := by
  rw [runSteps_succ (step_crcClear hs), runSteps_crcStepsRead rfl]
  simp [checksum, List.replicate_succ]

/-! ## Pseudo-instructions -/

/-- The requests of `checksum.stream`. -/
theorem checksumStream_requests (bs : List Byte) :
    (AsmLine.checksumStream bs).requests
      = encode .crcClear :: ((bs.map fun b => encode (.crcStep b)) ++ [encode .crcRead]) := by
  simp [AsmLine.requests, AsmLine.instrs, AsmLine.streamInstrs]

/-- One request to clear ACC, one for each byte, and one to read ACC. -/
theorem checksumStream_requests_length (bs : List Byte) :
    (AsmLine.checksumStream bs).requests.length = bs.length + 2 := by
  simp [checksumStream_requests]

/-- Settles O45: the frame lines are their ENCODE requests by definition, with the line count's two bytes by
`lengthBytes_toNat`; the stream's run is `runSteps_crcStream`. -/
theorem pseudoInstructionsExpand : Obligations.PseudoInstructionsExpand := by
  refine ⟨fun bs => rfl, fun i => rfl, fun lines k mode hlines => ⟨_, _, lengthBytes_toNat hlines, rfl⟩, rfl,
    fun bs s rest hs => ⟨checksumStream_requests bs, ?_⟩⟩
  rw [checksumStream_requests] at hs
  rw [checksumStream_requests_length]
  exact ⟨_, _, runSteps_crcStream hs, rfl, rfl⟩

end Sys2Proof.Machine
end

section
/-! PROOFS. The checksum family (40_checksum.md): CRC_CLEAR (R70), CRC_STEP and its runs (R72), CRC_READ (R73), and CHECKSUM
with the masks of its pseudocode (R71, R74). -/

namespace Sys2Proof.Machine

/-! ## The masks of rule R71 -/

/-- The mask on the table index is the identity on bytes, so rule R71's loop body is `crcUpdate`. -/
theorem tableAt_masked (table : Vector Byte 256) (acc b : Byte) :
    tableAt table ((acc ^^^ b) &&& 0xFF) = crcUpdate table acc b := by
  rw [byte_and_0xFF, crcUpdate]

/-- Rule R71 with both its masks: on the table index at each byte, and on the value returned. -/
theorem checksum_eq_masked_foldl (table : Vector Byte 256) (bs : List Byte) :
    (bs.foldl (fun acc b => tableAt table ((acc ^^^ b) &&& 0xFF)) 0x00) &&& 0xFF = checksum table bs := by
  have hbody : (fun acc b => tableAt table ((acc ^^^ b) &&& 0xFF)) = crcUpdate table :=
    funext₂ (tableAt_masked table)
  rw [hbody, byte_and_0xFF, checksum, crcFold]

/-- The checksum of no bytes is the initial accumulator (rule R76). -/
theorem checksum_nil (table : Vector Byte 256) : checksum table [] = 0x00 :=
  crcFold_nil table 0x00

/-- The checksum of one byte is its table entry (rule R76). -/
theorem checksum_singleton (table : Vector Byte 256) (b : Byte) : checksum table [b] = tableAt table b := by
  rw [checksum, crcFold_cons, crcFold_nil, crcUpdate]
  exact congrArg (tableAt table) BitVec.zero_xor

/-! ## What CRC_READ and CHECKSUM answer -/

/-- CRC_READ answers with ACC. -/
theorem answers_crcRead (s : State) : Answers .crcRead s 0x00 0 (.byte s.acc) :=
  answers_iff.2 ⟨rfl, rfl⟩

/-- CHECKSUM answers with the checksum of its input and leaves ACC as it was. -/
theorem answers_checksum (s : State) (bs : List Byte) :
    Answers (.checksum bs) s 0x00 0 (.byte (checksum s.params.substTable bs)) :=
  answers_iff.2 ⟨rfl, rfl⟩

/-! ## The obligations -/

/-- Settles O2: one step by `exec_eq`, its mask dropped by `tableAt_masked`; a run by `runSteps_crcSteps`, whose fold is
the checksum where it starts from 0x00. -/
theorem crcStepFoldsOneByte : Obligations.CrcStepFoldsOneByte := by
  refine ⟨fun s b => ⟨rfl, ?_⟩, fun s bs rest hacc hs => ⟨_, runSteps_crcSteps hs, ?_, rfl⟩⟩
  · rw [tableAt_masked, exec_eq]
    rfl
  · rw [hacc, checksum]

/-- Settles O1: `exec_eq` with what CRC_CLEAR leaves in ACC and answers. -/
theorem crcClearZeroesAcc : Obligations.CrcClearZeroesAcc := by
  refine fun s => ⟨rfl, ?_⟩
  rw [exec_eq]
  rfl

/-- Settles O3: by `answers_crcRead`, in the reset state with the ACC of rule R141. -/
theorem crcReadReturnsAcc : Obligations.CrcReadReturnsAcc := by
  refine ⟨rfl, answers_crcRead, ?_⟩
  have h := answers_crcRead State.reset
  rwa [State.reset_acc] at h

/-- Settles O4: by `answers_checksum`, with the checksum as the masked fold, of no bytes, and of one byte. -/
theorem checksumReturnsTheFold : Obligations.ChecksumReturnsTheFold := by
  refine fun s bs => ⟨rfl, ?_, ?_, fun b => ?_⟩
  · rw [checksum_eq_masked_foldl]
    exact answers_checksum s bs
  · rw [← checksum_nil s.params.substTable]
    exact answers_checksum s []
  · rw [← checksum_singleton]
    exact answers_checksum s [b]

end Sys2Proof.Machine
end

section
/-! PROOFS. The frame codec family (41_frame_codec.md): what ENCODE answers to every payload (R85), and what DECODE answers to
every input, in the order of its checks and in both modes (R88). -/

namespace Sys2Proof.Machine

/-! ## ENCODE -/

/-- ENCODE answers with `encodeFrame`'s response and no other. -/
theorem answers_encode_iff {s : State} {c : Byte} {payload : List Byte} {status : Byte} {info : Nat}
    {data : ResponseData} :
    Answers (.encode c payload) s status info data ↔
      encodeFrame s.params c payload = { status := status, info := info, data := data } := by
  rw [answers_iff]
  exact and_iff_right rfl

/-- A payload the length field can count is framed. -/
theorem encodeFrame_of_le (p : Params) (c : Byte) {payload : List Byte} (h : payload.length ≤ 65535) :
    encodeFrame p c payload = okResponse (.bytes (frameBytes p.substTable c payload)) :=
  if_neg (Nat.not_lt.2 h)

/-- A payload the length field cannot count is refused with its length. -/
theorem encodeFrame_of_gt (p : Params) (c : Byte) {payload : List Byte} (h : 65535 < payload.length) :
    encodeFrame p c payload = raise .errTooLong payload.length :=
  if_pos h

/-- The frame with its length field as remainder and quotient by 256, as rule R85 gives it. -/
theorem frameBytes_eq_mod_div (table : Vector Byte 256) (c : Byte) (payload : List Byte) :
    frameBytes table c payload
      = [0x22, 0x21, c, 0x00, BitVec.ofNat 8 (payload.length % 256), BitVec.ofNat 8 (payload.length / 256)]
        ++ payload ++ [checksum table payload, 0xFF] := by
  have hlo : BitVec.ofNat 8 (payload.length % 256) = BitVec.ofNat 8 payload.length :=
    BitVec.eq_of_toNat_eq (Nat.mod_mod _ _)
  rw [frameBytes_eq, hlo, Nat.shiftRight_eq_div_pow]
  rfl

/-- Settles O10: by `encodeFrame_of_le` and `encodeFrame_of_gt`, on either side of the bound; the empty payload's frame
carries the checksum of no bytes. -/
theorem encodeEmitsTheFrame : Obligations.EncodeEmitsTheFrame := by
  refine fun s c payload => ⟨rfl, fun hle => ?_, fun hgt => ?_, ?_⟩
  · rw [answers_encode_iff, encodeFrame_of_le _ _ hle, frameBytes_eq_mod_div]
    rfl
  · rw [answers_encode_iff, encodeFrame_of_gt _ _ hgt]
    rfl
  · rw [answers_encode_iff, encodeFrame_of_le _ _ (Nat.zero_le _), frameBytes_eq, checksum_nil]
    rfl

/-! ## The request of DECODE -/

/-- A DECODE request does DECODE of its input, whether a table row names the input's header or not (rule R64). -/
theorem exec_decodeInput (input : List Byte) (s : State) : exec (decodeInput input) s = exec (.decode input) s := by
  unfold decodeInput
  split
  · next hheader => rw [exec_instrOfFrame, ← frameHeaderOf_eq_some hheader]
  · rfl

/-- DECODE answers with `decodeFrame`'s response and no other. -/
theorem answers_decode_iff {s : State} {input : List Byte} {status : Byte} {info : Nat} {data : ResponseData} :
    Answers (.decode input) s status info data ↔
      decodeFrame s.params input = { status := status, info := info, data := data } := by
  rw [answers_iff]
  exact and_iff_right rfl

/-- A length field above what follows the header. -/
theorem decodeFrame_truncated (p : Params) (c flags : Byte) {lo hi : Byte} {rest : List Byte}
    (h : rest.length < lo.toNat + 256 * hi.toNat) :
    decodeFrame p (0x22 :: 0x21 :: c :: flags :: lo :: hi :: rest)
      = raise .errTruncated (lo.toNat + 256 * hi.toNat) := by
  rw [decodeFrame_header, if_pos h]

/-! ## DECODE of a whole payload, by what the verification finds -/

section WholePayload

variable {p : Params} {c flags lo hi : Byte} {payload more : List Byte}

/-- What the verification finds wrong is the answer. -/
theorem decodeFrame_corrupt {info : Nat} (hlength : payload.length = lo.toNat + 256 * hi.toNat)
    (h : trailerError p (0x22 :: 0x21 :: c :: flags :: lo :: hi :: (payload ++ more)) payload = some info) :
    decodeFrame p (0x22 :: 0x21 :: c :: flags :: lo :: hi :: (payload ++ more)) = raise .errCorrupt info := by
  rw [decodeFrame_payload p c flags lo hi payload more hlength, h]

/-- Where the verification finds nothing wrong, or is off, the frame is the answer. -/
theorem decodeFrame_accepted (hlength : payload.length = lo.toNat + 256 * hi.toNat)
    (h : trailerError p (0x22 :: 0x21 :: c :: flags :: lo :: hi :: (payload ++ more)) payload = none) :
    decodeFrame p (0x22 :: 0x21 :: c :: flags :: lo :: hi :: (payload ++ more))
      = okResponse (.frame ⟨c, flags, BitVec.ofNat 16 payload.length, payload⟩) := by
  rw [decodeFrame_payload p c flags lo hi payload more hlength, h]

/-- With verification, fewer than two bytes after the payload. -/
theorem trailerError_missing (hverify : p.verifyOnDecode = true) (h : more.length < 2) :
    trailerError p (0x22 :: 0x21 :: c :: flags :: lo :: hi :: (payload ++ more)) payload = some 1 := by
  rw [trailerError_on hverify]
  match more, h with
  | [], _ => rfl
  | [_], _ => rfl

/-- With verification, the two bytes after the payload: its checksum is looked at before the terminator. -/
theorem trailerError_present (hverify : p.verifyOnDecode = true) (k e : Byte) (after : List Byte) :
    trailerError p (0x22 :: 0x21 :: c :: flags :: lo :: hi :: (payload ++ k :: e :: after)) payload
      = if k ≠ checksum p.substTable payload then some 2 else if e ≠ 0xFF then some 3 else none := by
  rw [trailerError_on hverify]

end WholePayload

/-- Settles O13: one clause for each shape of the input, and for a whole payload one for each finding of the
verification. -/
theorem decodeAnswersEveryInput : Obligations.DecodeAnswersEveryInput := by
  refine fun s => ⟨fun input => ⟨decodeInput input, rfl, exec_decodeInput input s⟩, fun input hmarker => ?marker,
    fun rest hshort => ?short, fun c flags lo hi rest htruncated => ?truncated,
    fun c flags lo hi payload more hlength => ⟨fun hoff => ?unverified, fun hverify hmissing => ?missing, ?trailer⟩⟩
  case marker =>
    rw [answers_decode_iff, decodeFrame_marker _ hmarker]
    rfl
  case short =>
    rw [answers_decode_iff, decodeFrame_short _ hshort, Nat.add_comm]
    rfl
  case truncated =>
    rw [answers_decode_iff, decodeFrame_truncated _ c flags htruncated]
    rfl
  case unverified =>
    rw [answers_decode_iff, decodeFrame_accepted hlength (trailerError_off hoff _ _)]
    rfl
  case missing =>
    rw [answers_decode_iff, decodeFrame_corrupt hlength (trailerError_missing hverify hmissing)]
    rfl
  case trailer =>
    rintro k e after hverify rfl
    refine ⟨fun hk => ?checksum, fun hk he => ?terminator, fun hk he => ?verified⟩
    case checksum =>
      rw [answers_decode_iff, decodeFrame_corrupt hlength]
      · rfl
      · rw [trailerError_present hverify, if_pos hk]
    case terminator =>
      rw [answers_decode_iff, decodeFrame_corrupt hlength]
      · rfl
      · rw [trailerError_present hverify, if_neg (not_not.2 hk), if_pos he]
    case verified =>
      rw [answers_decode_iff, decodeFrame_accepted hlength]
      · rfl
      · rw [trailerError_present hverify, if_neg (not_not.2 hk), if_neg (not_not.2 he)]

end Sys2Proof.Machine
end

section
/-! PROOFS. The bitmap packer family (42_bitmap_packer.md): PACK's answer to every bitmap, in the order of its checks, and
every byte of the buffer it returns (R100). -/

namespace Sys2Proof.Machine

/-- PACK answers with `packImage`'s response and no other. -/
theorem answers_pack_iff {s : State} {rows : List (List Bool)} {w b m : Nat} {status : Byte} {info : Nat}
    {data : ResponseData} :
    Answers (.pack rows w b m) s status info data ↔
      packImage rows w b m = { status := status, info := info, data := data } := by
  rw [answers_iff]
  exact and_iff_right rfl

/-! ## The checks of PACK -/

/-- The geometry is checked before any row. -/
theorem packImage_geometry (rows : List (List Bool)) {w b : Nat} (m : Nat) (h : w ≠ 8 * b) :
    packImage rows w b m = raise .errGeometry 0 :=
  if_pos h

/-- Where the geometry holds, a bad row is reported by its index. -/
theorem packImage_badRow {rows : List (List Bool)} {w b r : Nat} (m : Nat) (hw : w = 8 * b)
    (hbad : firstBadRow w rows = some r) : packImage rows w b m = raise .errRowWidth r := by
  rw [packImage, if_neg (not_not.2 hw), hbad]

/-- A row of another length is the one the check finds, if every row before it has the given length. -/
theorem firstBadRow_of_getElem? {rows : List (List Bool)} {w r : Nat} {row : List Bool} (hr : rows[r]? = some row)
    (hlength : row.length ≠ w) (hbefore : ∀ q row', q < r → rows[q]? = some row' → row'.length = w) :
    firstBadRow w rows = some r := by
  obtain ⟨hlt, rfl⟩ := List.getElem?_eq_some_iff.1 hr
  exact firstBadRow_eq_some hlt hlength fun q hq => hbefore q _ hq (List.getElem?_eq_getElem (hq.trans hlt))

/-! ## The buffer of PACK -/

/-- The buffer has the bytes of `max(len(rows), minLines)` lines. -/
theorem padTo_packRows_length (m b : Nat) (rows : List (List Bool)) :
    (padTo (m * b) (packRows b rows)).length = max rows.length m * b := by
  rw [padTo_length, packRows_length, Nat.mul_max_mul_right]

/-- Byte j of row r stands at index r * b + j of the buffer, padded or not. -/
theorem padTo_packRows_getElem? {rows : List (List Bool)} {row : List Bool} {r j b : Nat} (m : Nat)
    (hr : rows[r]? = some row) (hj : j < b) :
    (padTo (m * b) (packRows b rows))[r * b + j]? = some (packByte row j) := by
  rw [padTo_getElem?_left (packRows_index_lt hr hj), packRows_getElem? hr hj]

/-- From the end of the rows on, the buffer is zero bytes. -/
theorem padTo_packRows_padding {rows : List (List Bool)} {m b i : Nat} (h : rows.length * b ≤ i)
    (hi : i < (padTo (m * b) (packRows b rows)).length) :
    (padTo (m * b) (packRows b rows))[i]? = some 0x00 := by
  rw [padTo_length, packRows_length] at hi
  have hm : i < m * b := (lt_max_iff.1 hi).resolve_left (Nat.not_lt.2 h)
  exact padTo_getElem?_right (by rwa [packRows_length]) hm

/-- The eight pixels of byte j of a whole row are its eight bits. -/
theorem packByte_pixel_bit {row : List Bool} {b j k : Nat} (hrow : row.length = 8 * b) (hj : j < b) (hk : k < 8) :
    row[8 * j + k]? = some ((packByte row j).getLsbD k) := by
  have hpixel := packByte_pixel (row := row) (x := 8 * j + k) (by omega)
  rwa [show (8 * j + k) / 8 = j by omega, show (8 * j + k) % 8 = k by omega] at hpixel

/-- Settles O22: one clause for each finding of the checks; where they pass, the buffer is the packed rows and their
padding, of which every byte is known. -/
theorem packAnswersEveryBitmap : Obligations.PackAnswersEveryBitmap := by
  refine fun s rows w b m => ⟨rfl, fun hw => ?geometry, fun r row hw hr hlength hbefore => ?rowWidth,
    fun hw hrows => ⟨padTo (m * b) (packRows b rows), ?ok, padTo_packRows_length m b rows,
      fun r j row hr hj => ⟨packByte row j, padTo_packRows_getElem? m hr hj, fun k hk => ?pixel⟩,
      fun i => padTo_packRows_padding⟩⟩
  case geometry =>
    rw [answers_pack_iff, packImage_geometry rows m hw]
    rfl
  case rowWidth =>
    rw [answers_pack_iff, packImage_badRow m hw (firstBadRow_of_getElem? hr hlength hbefore)]
    rfl
  case ok =>
    rw [answers_pack_iff, packImage_ok m hw hrows]
    rfl
  case pixel =>
    exact packByte_pixel_bit ((hrows row (List.mem_of_getElem? hr)).trans hw) hj hk

end Sys2Proof.Machine
end

section
/-! PROOFS. The exceptions family (60_exceptions.md): an error returns no data and changes no state (R121), and the next
request is taken as if the failed one had never been issued (R122). -/

namespace Sys2Proof.Machine

/-! ## Errors return no data -/

/-- A response that is an error has no data (rule R121). -/
def Response.ErrorHasNoData (r : Response) : Prop := r.status ≠ 0x00 → r.data = .empty

theorem okResponse_errorHasNoData (d : ResponseData) : (okResponse d).ErrorHasNoData :=
  fun h => absurd (okResponse_status d) h

theorem raise_errorHasNoData (c : ResultCode) (n : Nat) : (raise c n).ErrorHasNoData :=
  fun _ => raise_data c n

/-- ENCODE raises its one error or answers OK. -/
theorem encodeFrame_errorHasNoData (p : Params) (c : Byte) (payload : List Byte) :
    (encodeFrame p c payload).ErrorHasNoData := by
  unfold encodeFrame
  split
  · exact raise_errorHasNoData _ _
  · exact okResponse_errorHasNoData _

/-- DECODE's three checks of the header and the payload raise, then its verification raises, or it answers OK. -/
theorem decodeFrame_errorHasNoData (p : Params) (input : List Byte) : (decodeFrame p input).ErrorHasNoData := by
  unfold decodeFrame
  split_ifs with hmarker hshort htruncated
  · exact raise_errorHasNoData _ _
  · exact raise_errorHasNoData _ _
  · exact raise_errorHasNoData _ _
  · split
    · exact raise_errorHasNoData _ _
    · exact okResponse_errorHasNoData _

/-- PACK's geometry check raises, then its check of the rows raises, or it answers OK. -/
theorem packImage_errorHasNoData (rows : List (List Bool)) (w b m : Nat) : (packImage rows w b m).ErrorHasNoData := by
  unfold packImage
  split
  · exact raise_errorHasNoData _ _
  · split
    · exact raise_errorHasNoData _ _
    · exact okResponse_errorHasNoData _

/-- No instruction returns data with an error. -/
theorem responseTo_errorHasNoData (i : Instr) (p : Params) (acc : Byte) : (responseTo i p acc).ErrorHasNoData := by
  cases i with
  | crcClear | crcStep | crcRead | checksum => exact okResponse_errorHasNoData _
  | encode cmdId payload => exact encodeFrame_errorHasNoData p cmdId payload
  | pack rows w b m => exact packImage_errorHasNoData rows w b m
  | decode | frameGetStatus | frameSetIntensity | framePrintRequest | framePrintComplete | frameFlushData =>
    exact decodeFrame_errorHasNoData p _

/-! ## Errors change no state -/

/-- The two writers of ACC answer OK, so an instruction answered with an error leaves ACC as it was. -/
theorem accAfter_eq_acc_of_error {i : Instr} {s : State} (h : (responseTo i s.params s.acc).status ≠ 0x00) :
    accAfter i s = s.acc := by
  refine accAfter_eq_acc ?_ ?_ s
  · rintro rfl
    exact h (okResponse_status _)
  · rintro b rfl
    exact h (okResponse_status _)

/-- A request answered with an error does nothing but append its response, which has no data. -/
theorem takeRequest_error {r : Request} {s t : State} {a : Response} (h : takeRequest r s = .next t)
    (hresponses : t.responses = s.responses ++ [a]) (herror : a.status ≠ 0x00) :
    a.data = .empty ∧ t = s.respond a := by
  cases hr : decode r with
  | illegalOp op =>
    rw [takeRequest_illegalOp hr] at h
    cases h
    obtain rfl : raise .errOp op.toNat = a := List.singleton_inj.1 (List.append_cancel_left hresponses)
    exact ⟨raise_data _ _, rfl⟩
  | instr i =>
    rw [takeRequest_instr hr] at h
    obtain rfl : responseTo i s.params s.acc = a :=
      List.singleton_inj.1 (List.append_cancel_left ((exec_responses h).symm.trans hresponses))
    refine ⟨responseTo_errorHasNoData i s.params s.acc herror, ?_⟩
    rw [exec_next h, accAfter_eq_acc_of_error herror, State.writeAcc_self]

/-- Settles O37: a request is taken by `takeRequest`, and by `takeRequest_error` an error does nothing but append itself. -/
theorem errorChangesNoState : Obligations.ErrorChangesNoState := by
  intro s t r rest a hs hstep hresponses herror
  rw [step_takeRequest hs] at hstep
  exact takeRequest_error hstep hresponses herror

/-- Settles O38: after the error the ACC and the constants are those from before the failed request (O37), and nothing else
decides the answer to the next one (O39). -/
theorem errorsAreNotSticky : Obligations.ErrorsAreNotSticky := by
  intro s t r q rest a hs hstep hresponses herror
  obtain ⟨-, rfl⟩ := errorChangesNoState s t r (.request q :: rest) a hs hstep hresponses herror
  obtain ⟨v, answer, hafter, hbefore⟩ := answersDependOnAccAndConstantsOnly
    { s with inputs := .request q :: rest, responses := s.responses ++ [a] } { s with inputs := .request q :: rest }
    q rest rest rfl rfl rfl rfl
  rw [List.append_assoc] at hafter
  exact ⟨v, answer, hafter, hbefore⟩

end Sys2Proof.Machine
end

section
/-! PROOFS. The two directions of the frame codec together (41_frame_codec.md sections 2 and 3): the inputs DECODE accepts, with
the round trip (R93), the bytes after a frame (R91), what verification covers (R92) and what it does not (R94, R146). -/

namespace Sys2Proof.Machine

/-! ## The inputs DECODE accepts -/

/-- The input that states the fields of f, with length bytes lo and hi and with `more` after the payload. -/
def inputOf (f : DecodedFrame) (lo hi : Byte) (more : List Byte) : List Byte :=
  0x22 :: 0x21 :: f.cmdId :: f.flags :: lo :: hi :: (f.payload ++ more)

/-- The three conditions under which DECODE accepts `inputOf f lo hi more` and returns f: the length bytes count the payload, f
reports that length, and with verification on the checksum and the terminator follow. -/
structure IsAccepted (p : Params) (f : DecodedFrame) (lo hi : Byte) (more : List Byte) : Prop where
  length_bytes : f.payload.length = lo.toNat + 256 * hi.toNat
  length_field : f.length = BitVec.ofNat 16 f.payload.length
  trailer : p.verifyOnDecode = true → ∃ after, more = checksum p.substTable f.payload :: 0xFF :: after

/-- The verification finds nothing wrong where it is off, or where the checksum and the terminator follow the payload. -/
theorem trailerError_eq_none_iff {p : Params} {c flags lo hi : Byte} {payload more : List Byte} :
    trailerError p (0x22 :: 0x21 :: c :: flags :: lo :: hi :: (payload ++ more)) payload = none ↔
      (p.verifyOnDecode = true → ∃ after, more = checksum p.substTable payload :: 0xFF :: after) := by
  cases hverify : p.verifyOnDecode with
  | false => simp [trailerError_off hverify]
  | true =>
    rw [trailerError_on hverify]
    match more with
    | [] => simp
    | [k] => simp
    | k :: e :: after => by_cases hk : k = checksum p.substTable payload <;> simp [hk]

/-- DECODE returns the frame f on the accepted inputs of f and on no other. -/
theorem decodeFrame_eq_frame_iff {p : Params} {input : List Byte} {f : DecodedFrame} :
    decodeFrame p input = okResponse (.frame f) ↔
      ∃ lo hi more, input = inputOf f lo hi more ∧ IsAccepted p f lo hi more := by
  constructor
  · intro h
    obtain hmarker | ⟨rest, rfl, hshort⟩ | ⟨c, flags, lo, hi, rest, rfl⟩ := input_shape input
    · rw [decodeFrame_marker p hmarker] at h
      cases h
    · rw [decodeFrame_short p hshort] at h
      cases h
    · rw [decodeFrame_header] at h
      split_ifs at h with htruncated
      · cases h
      split at h
      · cases h
      · next hnone =>
        cases h
        have hlength : (rest.take (lo.toNat + 256 * hi.toNat)).length = lo.toNat + 256 * hi.toNat :=
          List.length_take_of_le (Nat.not_lt.1 htruncated)
        have hsplit := List.take_append_drop (lo.toNat + 256 * hi.toNat) rest
        refine ⟨lo, hi, rest.drop (lo.toNat + 256 * hi.toNat), by rw [inputOf, hsplit],
          hlength, by rw [hlength],
          (trailerError_eq_none_iff (c := c) (flags := flags) (lo := lo) (hi := hi)).1 ?_⟩
        rwa [hsplit]
  · rintro ⟨lo, hi, more, rfl, hbytes, hfield, htrailer⟩
    rw [inputOf, decodeFrame_accepted hbytes (trailerError_eq_none_iff.2 htrailer), ← hfield]

/-- `decodeFrame_eq_frame_iff` for the instruction. -/
theorem answers_decode_frame_iff {s : State} {input : List Byte} {f : DecodedFrame} :
    Answers (.decode input) s 0x00 0 (.frame f) ↔
      ∃ lo hi more, input = inputOf f lo hi more ∧ IsAccepted s.params f lo hi more :=
  answers_decode_iff.trans decodeFrame_eq_frame_iff

/-- The length field of an accepted frame counts its payload, since two length bytes count 65535 at most. -/
theorem IsAccepted.length_toNat {p : Params} {f : DecodedFrame} {lo hi : Byte} {more : List Byte}
    (h : IsAccepted p f lo hi more) : f.length.toNat = f.payload.length := by
  rw [h.length_field, h.length_bytes, BitVec.toNat_ofNat, Nat.mod_eq_of_lt]
  have := lo.isLt
  have := hi.isLt
  omega

/-- An input cut k bytes after its payload. -/
theorem inputOf_take (f : DecodedFrame) (lo hi : Byte) (more : List Byte) (k : Nat) :
    (inputOf f lo hi more).take (6 + k + f.payload.length) = inputOf f lo hi (more.take k) := by
  rw [show 6 + k + f.payload.length = f.payload.length + k + 6 by omega]
  exact congrArg (fun rest => 0x22 :: 0x21 :: f.cmdId :: f.flags :: lo :: hi :: rest) (List.take_length_add_append k)

/-! ## What ENCODE returns -/

/-- ENCODE returns a frame for the payloads the length field can count, and then the bytes of rule R85. -/
theorem answers_encode_bytes_iff {s : State} {c : Byte} {payload out : List Byte} :
    Answers (.encode c payload) s 0x00 0 (.bytes out) ↔
      payload.length ≤ 65535 ∧ out = frameBytes s.params.substTable c payload := by
  rw [answers_encode_iff]
  obtain hle | hgt := le_or_gt payload.length 65535
  · rw [encodeFrame_of_le _ _ hle]
    simp [okResponse, statusCode, hle, eq_comm]
  · rw [encodeFrame_of_gt _ _ hgt]
    simp [raise, Nat.not_le.2 hgt]

/-- The checksum byte of a frame stands after the payload. -/
theorem frameBytes_checksum_byte (table : Vector Byte 256) (c : Byte) (payload : List Byte) :
    (frameBytes table c payload)[6 + payload.length]? = some (checksum table payload) := by
  simp [frameBytes_eq, Nat.add_comm 6]

/-- Settles O11: the bytes of `frameBytes_eq` one index after the other. -/
theorem encodedFrameKeepsItsForm : Obligations.EncodedFrameKeepsItsForm := by
  intro s c payload out h
  obtain ⟨hle, rfl⟩ := answers_encode_bytes_iff.1 h
  have hlength := frameBytes_length s.params.substTable c payload
  refine ⟨hlength, by omega, by omega, ?_⟩
  have hchecksum := frameBytes_checksum_byte s.params.substTable c payload
  rw [frameBytes_eq] at hchecksum ⊢
  refine ⟨rfl, rfl, ?_, ⟨_, _, rfl, rfl, lengthBytes_toNat hle⟩, fun i hi => ?_, hchecksum⟩
  · simp [Nat.add_comm 7]
  · rw [Nat.add_comm]
    exact List.getElem?_append_left hi

/-- Settles O12: `frameBytes` takes nothing of the state but its table, and its checksum byte is that of the payload. -/
theorem encodeIgnoresAccAndHeader : Obligations.EncodeIgnoresAccAndHeader := by
  intro s u c d payload hparams hle
  have hframe : ∀ (v : State) (cmdId : Byte), v.params = s.params →
      Answers (.encode cmdId payload) v 0x00 0 (.bytes (frameBytes s.params.substTable cmdId payload)) :=
    fun v cmdId hv => answers_encode_bytes_iff.2 ⟨hle, by rw [hv]⟩
  refine ⟨_, _, hframe s c rfl, hframe u c hparams.symm, hframe u d hparams.symm, ?_, ?_⟩
  · exact frameBytes_checksum_byte _ c payload
  · rw [frameBytes_checksum_byte, frameBytes_checksum_byte]

/-! ## The round trip -/

/-- A frame of ENCODE as an input of DECODE: the checksum and the terminator follow the payload. -/
theorem frameBytes_eq_inputOf (table : Vector Byte 256) (c : Byte) (payload : List Byte) :
    frameBytes table c payload
      = inputOf ⟨c, 0x00, BitVec.ofNat 16 payload.length, payload⟩ (BitVec.ofNat 8 payload.length)
          (BitVec.ofNat 8 (payload.length >>> 8)) [checksum table payload, 0xFF] :=
  frameBytes_eq table c payload

/-- DECODE of what ENCODE returned, with verification or without. -/
theorem answers_decode_frameBytes (s : State) (c : Byte) {payload : List Byte} (h : payload.length ≤ 65535) :
    Answers (.decode (frameBytes s.params.substTable c payload)) s 0x00 0
      (.frame ⟨c, 0x00, BitVec.ofNat 16 payload.length, payload⟩) :=
  answers_decode_frame_iff.2
    ⟨_, _, _, frameBytes_eq_inputOf _ c payload, (lengthBytes_toNat h).symm, rfl, fun _ => ⟨[], rfl⟩⟩

/-- A DECODE request decodes to the instruction its input names. -/
theorem decode_decodeRequest (input : List Byte) : decode (decodeRequest input) = .instr (decodeInput input) := rfl

/-- A DECODE request issued next is answered by the step as DECODE answers its input. -/
theorem step_issueNext_decodeRequest {s : State} {input : List Byte} {status : Byte} {info : Nat}
    {data : ResponseData} (h : Answers (.decode input) s status info data) :
    step (s.issueNext (decodeRequest input)) = .next (s.respond ⟨status, info, data⟩) := by
  rw [step_request (State.issueNext_inputs s _) (decode_decodeRequest input), exec_decodeInput]
  exact h

/-- Settles O14: the frame is an accepted input of its own fields (`answers_decode_frameBytes`), in the later state too since
it has the same constants. -/
theorem decodeRecoversWhatEncodeWrote : Obligations.DecodeRecoversWhatEncodeWrote := by
  intro s u c payload rest hle hparams
  refine ⟨frameBytes s.params.substTable c payload, BitVec.ofNat 16 payload.length,
    answers_encode_bytes_iff.2 ⟨hle, rfl⟩, ?_, ?_⟩
  · rw [BitVec.toNat_ofNat, Nat.mod_eq_of_lt (by omega)]
  · rw [← hparams]
    have hdecode := answers_decode_frameBytes (u.withInputs rest) c hle
    exact step_issueNext_decodeRequest hdecode

/-! ## Bytes after the frame, and what verification covers -/

/-- Settles O15: appending bytes appends to what follows the payload; cutting leaves the two bytes the verification looks at,
or none where it is off (`inputOf_take`). -/
theorem bytesAfterTheFrameAreIgnored : Obligations.BytesAfterTheFrameAreIgnored := by
  intro s input extra f h
  obtain ⟨lo, hi, more, rfl, haccepted⟩ := answers_decode_frame_iff.1 h
  rw [haccepted.length_toNat]
  obtain ⟨hbytes, hfield, htrailer⟩ := haccepted
  refine ⟨answers_decode_frame_iff.2 ⟨lo, hi, more ++ extra, ?_, hbytes, hfield, fun hverify => ?_⟩,
    fun hoff => answers_decode_frame_iff.2 ⟨lo, hi, [], inputOf_take f lo hi more 0, hbytes, hfield, fun hverify => ?_⟩,
    fun hverify => answers_decode_frame_iff.2
      ⟨lo, hi, more.take 2, inputOf_take f lo hi more 2, hbytes, hfield, fun _ => ?_⟩⟩
  · simp [inputOf]
  · obtain ⟨after, rfl⟩ := htrailer hverify
    exact ⟨after ++ extra, rfl⟩
  · rw [hoff] at hverify
    cases hverify
  · obtain ⟨after, rfl⟩ := htrailer hverify
    exact ⟨[], rfl⟩

/-- Settles O16: an accepted input cut after the two bytes the verification looked at. -/
theorem verifiedFrameSatisfiesTheInvariant : Obligations.VerifiedFrameSatisfiesTheInvariant := by
  intro s input f hverify h
  obtain ⟨lo, hi, more, rfl, haccepted⟩ := answers_decode_frame_iff.1 h
  obtain ⟨after, rfl⟩ := haccepted.trailer hverify
  exact ⟨lo, hi, haccepted.length_bytes.symm, haccepted.length_toNat, inputOf_take f lo hi _ 2⟩

/-- Settles O17: a frame of ENCODE decodes to the fields it was made of, and DECODE returns one frame for an input; without
verification nothing is asked of the two bytes. -/
theorem reencodingGivesBackEncodedFramesOnly : Obligations.ReencodingGivesBackEncodedFramesOnly := by
  refine ⟨fun s input f hdecode => ⟨fun h => ⟨f.cmdId, f.payload, h⟩, ?_⟩,
    fun s c flags lo hi k e k' e' payload hoff hlength => ?_⟩
  · rintro ⟨c, payload, hencode⟩
    obtain ⟨hle, rfl⟩ := answers_encode_bytes_iff.1 hencode
    have hframe := (answers_decode_iff.1 (answers_decode_frameBytes s c hle)).symm.trans (answers_decode_iff.1 hdecode)
    cases hframe
    exact hencode
  · have haccepted : ∀ more, Answers (.decode ([0x22, 0x21, c, flags, lo, hi] ++ payload ++ more)) s 0x00 0
        (.frame ⟨c, flags, BitVec.ofNat 16 payload.length, payload⟩) := fun more =>
      answers_decode_frame_iff.2 ⟨lo, hi, more, rfl, hlength, rfl, fun hverify => by
        rw [hoff] at hverify
        cases hverify⟩
    exact (haccepted [k, e]).trans (haccepted [k', e']).symm

/-- Settles O18: no condition of `IsAccepted` reads the command identifier or byte 3. -/
theorem headerIsNotCoveredByVerification : Obligations.HeaderIsNotCoveredByVerification := by
  intro s c flags d flags' rest f h
  obtain ⟨lo, hi, more, hinput, hbytes, hfield, htrailer⟩ := answers_decode_frame_iff.1 h
  obtain ⟨-, -, rfl⟩ : c = f.cmdId ∧ flags = f.flags ∧ rest = lo :: hi :: (f.payload ++ more) := by
    simpa [inputOf] using hinput
  exact answers_decode_frame_iff.2 ⟨lo, hi, more, rfl, hbytes, hfield, htrailer⟩

/-! ## Frames the table names -/

/-- A frame row's instruction completes with its frame where DECODE accepts the frame's input. -/
theorem answers_instrOfFrame {s : State} (c : CommandId) {flags lo hi : Byte} {payload more : List Byte}
    (hlength : payload.length = lo.toNat + 256 * hi.toNat)
    (htrailer : s.params.verifyOnDecode = true →
      ∃ after, more = checksum s.params.substTable payload :: 0xFF :: after) :
    Answers (instrOfFrame c flags (lo :: hi :: (payload ++ more))) s 0x00 0
      (.frame ⟨c.code, flags, BitVec.ofNat 16 payload.length, payload⟩) :=
  (exec_instrOfFrame c flags _ s).trans
    (answers_decode_frame_iff.2 ⟨lo, hi, more, rfl, hlength, rfl, htrailer⟩)

/-- Settles O21: `answers_instrOfFrame` for each of the five commands. -/
theorem namedFramesDecodeToTheirFields : Obligations.NamedFramesDecodeToTheirFields :=
  fun _ _ _ _ _ _ hlength htrailer =>
    ⟨answers_instrOfFrame .getStatus hlength htrailer, answers_instrOfFrame .setIntensity hlength htrailer,
      answers_instrOfFrame .printRequest hlength htrailer, answers_instrOfFrame .printComplete hlength htrailer,
      answers_instrOfFrame .flushData hlength htrailer⟩

/-- A DECODE request whose input begins with a command's header decodes to that command's instruction. -/
theorem decode_frameInput (c : CommandId) (flags : Byte) (rest : List Byte) :
    decode (decodeRequest (frameInput c flags rest)) = .instr (instrOfFrame c flags rest) := by
  rw [decode_decodeRequest, decodeInput, frameHeaderOf_frameInput]

/-- A byte that is none of the five identifiers of rule R55 names no command. -/
theorem commandOf_eq_none {c : Byte} (h : c ∉ ([0xA1, 0xA2, 0xA9, 0xAA, 0xAD] : List Byte)) : commandOf c = none := by
  cases hc : commandOf c with
  | none => rfl
  | some command =>
    rw [commandOf_eq_some hc] at h
    cases command <;> exact absurd (by decide) h

/-- Settles O20: `decode_frameInput` and `exec_instrOfFrame` for each of the five commands; any other byte 2 matches no row. -/
theorem frameRowsAreDecodedTheSameWay : Obligations.FrameRowsAreDecodedTheSameWay := by
  intro s c flags rest
  have hcommand : ∀ command : CommandId,
      decode (decodeRequest (frameInput command flags rest)) = .instr (instrOfFrame command flags rest)
        ∧ exec (instrOfFrame command flags rest) s = exec (.decode (frameInput command flags rest)) s :=
    fun command => ⟨decode_frameInput command flags rest, exec_instrOfFrame command flags rest s⟩
  refine ⟨hcommand .getStatus, hcommand .setIntensity, hcommand .printRequest, hcommand .printComplete,
    hcommand .flushData, fun hc => ?_⟩
  have hheader : frameHeaderOf (0x22 :: 0x21 :: c :: flags :: rest) = none := by
    simp [frameHeaderOf, commandOf_eq_none hc]
  have hdecode := decode_decodeRequest (0x22 :: 0x21 :: c :: flags :: rest)
  rwa [decodeInput, hheader] at hdecode

end Sys2Proof.Machine
end

section
/-! PROOFS. The decoder and the encoder of requests (30_encoding.md sections 4 and 6): the operation codes, the words of the
opcode table, and that decoding and encoding are inverse to each other. -/

namespace Sys2Proof

/-! ## Operation codes -/

/-- Settles O26: the listed codes by definition of the decoder, every other one by `operationOf_eq_none`. -/
theorem operationCodesSelectTheirOperations : Obligations.OperationCodesSelectTheirOperations :=
  fun _ => ⟨fun _ hop => decode_illegalOp (operationOf_eq_none hop), rfl, rfl, rfl, rfl, rfl, rfl, rfl⟩

/-! ## Words of the opcode table -/

/-- The header word of a command, byte 3 in its low bits, is laid out as the command's header. -/
theorem headerBytes_command (c : CommandId) (flags : Byte) :
    headerBytes (0x22210000 + 256 * c.code.toNat + flags.toNat)
      = [Config.marker0, Config.marker1, c.code, flags] := by
  have hc := c.code.isLt
  have hflags := flags.isLt
  have hmarker0 : Config.marker0.toNat = 0x22 := rfl
  have hmarker1 : Config.marker1.toNat = 0x21 := rfl
  simp only [headerBytes, List.cons.injEq, and_true, ← BitVec.toNat_inj, BitVec.toNat_ofNat,
    Nat.shiftRight_eq_div_pow, hmarker0, hmarker1]
  omega

/-- A header word is read as the instruction of its command, with four zero bytes after byte 3. -/
theorem decodeTableWord_command (c : CommandId) (flags : Byte) :
    decodeTableWord 32 (0x22210000 + 256 * c.code.toNat + flags.toNat)
      = some (instrOfFrame c flags [0, 0, 0, 0]) := by
  have hrequest : tableRequest 32 (0x22210000 + 256 * c.code.toNat + flags.toNat)
      = decodeRequest (frameInput c flags [0, 0, 0, 0]) := by
    rw [tableRequest, if_neg (by decide), headerBytes_command]
    rfl
  rw [decodeTableWord, hrequest, Machine.decode_frameInput]

/-- Settles O27: the request rows by definition, the header rows by `decodeTableWord_command`. -/
theorem tableWordsDecode : Obligations.TableWordsDecode :=
  ⟨rfl, rfl, rfl, rfl, rfl, rfl, rfl, fun flags =>
    ⟨decodeTableWord_command .getStatus flags, decodeTableWord_command .setIntensity flags,
      decodeTableWord_command .printRequest flags, decodeTableWord_command .printComplete flags,
      decodeTableWord_command .flushData flags⟩⟩

/-! ## Decoding and encoding -/

/-- A well-formed DECODE is named by its own input. -/
theorem decodeInput_of_wellFormed {input : List Byte} (h : WellFormed (.decode input) = true) :
    decodeInput input = .decode input := by
  rw [decodeInput, Option.isNone_iff_eq_none.1 h]

/-- Settles O28: by the constructors; a frame row's request by `decode_frameInput`, DECODE's own by
`decodeInput_of_wellFormed`. -/
theorem decodeOfEncodeIsTheInstruction : Obligations.DecodeOfEncodeIsTheInstruction := by
  intro i hwf
  cases i with
  | crcClear | crcStep | crcRead | checksum | encode | pack => rfl
  | decode input => exact congrArg Decoded.instr (decodeInput_of_wellFormed hwf)
  | frameGetStatus flags rest => exact Machine.decode_frameInput .getStatus flags rest
  | frameSetIntensity flags rest => exact Machine.decode_frameInput .setIntensity flags rest
  | framePrintRequest flags rest => exact Machine.decode_frameInput .printRequest flags rest
  | framePrintComplete flags rest => exact Machine.decode_frameInput .printComplete flags rest
  | frameFlushData flags rest => exact Machine.decode_frameInput .flushData flags rest

/-- The instruction of a frame row is well-formed, and its request is DECODE of the frame's input. -/
theorem instrOfFrame_wellFormed_encode (c : CommandId) (flags : Byte) (rest : List Byte) :
    WellFormed (instrOfFrame c flags rest) = true
      ∧ encode (instrOfFrame c flags rest) = decodeRequest (frameInput c flags rest) := by
  cases c <;> exact ⟨rfl, rfl⟩

/-- The instruction a DECODE request's input names is well-formed, and its request is that request. -/
theorem decodeInput_wellFormed_encode (input : List Byte) :
    WellFormed (decodeInput input) = true ∧ encode (decodeInput input) = decodeRequest input := by
  unfold decodeInput
  split
  · next hheader =>
    rw [frameHeaderOf_eq_some hheader]
    exact instrOfFrame_wellFormed_encode _ _ _
  · next hheader => exact ⟨Option.isNone_iff_eq_none.2 hheader, rfl⟩

/-- Settles O29: by the operation the code selects; a code that selects none decodes to no instruction, and the request's
operands are the listed ones alone by `Request.wf`. -/
theorem encodeOfDecodeIsTheRequest : Obligations.EncodeOfDecodeIsTheRequest := by
  rintro ⟨op, operands⟩ i h
  cases hop : operationOf op with
  | none =>
    rw [decode_illegalOp hop] at h
    cases h
  | some operation =>
    obtain rfl := operationOf_eq_some hop
    rw [decode, hop] at h
    rw [Request.wf, hop]
    cases operation with
    | decode =>
      cases h
      obtain ⟨hwellFormed, hencode⟩ := decodeInput_wellFormed_encode operands.input
      refine ⟨hwellFormed, fun hwf => ?_⟩
      rw [hencode, decodeRequest, ← eq_of_beq hwf]
    | crcClear | crcStep | crcRead | checksum | encode | pack =>
      cases h
      exact ⟨rfl, fun hwf => congrArg (Request.mk _) (eq_of_beq hwf).symm⟩

end Sys2Proof
end

section
/-! PROOFS. The step and its runs: what an instruction keeps, resets (R140, R141), the answers in order (R16, R17), runs that
never stop (R126), and the form of the responses as an invariant (R35, R120, R121). -/

namespace Sys2Proof.Machine

/-! ## One step -/

/-- The instruction read from a table word is what its request decodes to. -/
theorem decode_tableRequest {nbits w : Nat} {i : Instr} (h : decodeTableWord nbits w = some i) :
    decode (tableRequest nbits w) = .instr i := by
  unfold decodeTableWord at h
  split at h
  · next hdecode => rw [hdecode, Option.some.inj h]
  · cases h

/-- Settles O31: by `step_request`; a table word's request is at the front of the port. -/
theorem stepRunsTheDecodedInstruction : Obligations.StepRunsTheDecodedInstruction :=
  ⟨fun _ _ _ _ => step_request,
    fun s nbits w _ h => step_request (State.issueNext_inputs s (tableRequest nbits w)) (decode_tableRequest h)⟩

/-- Settles O32: by `step_nil`. -/
theorem idleStepChangesNothing : Obligations.IdleStepChangesNothing :=
  fun _ => step_nil

/-- Settles O34: the fields of the reset state and of its constants. -/
theorem resetStateValues : Obligations.ResetStateValues :=
  ⟨State.reset_acc, rfl, rfl, State.reset_inputs, State.reset_responses⟩

/-- Settles O33: the step by `step_reset`; the CRC_STEPs after it fold from the ACC it left, 0x00. -/
theorem resetLeavesTheResetState : Obligations.ResetLeavesTheResetState := by
  intro s e events hs he
  have hreset : ∀ r, e ≠ .request r := by
    rintro r rfl
    obtain h | ⟨r', h⟩ := he
    · cases h
    · cases h
  have hstep := step_reset hs hreset
  refine ⟨hstep, fun bs rest hevents => ?_⟩
  rw [Nat.add_comm, runSteps_succ hstep]
  exact ⟨_, runSteps_crcSteps hevents, rfl, rfl⟩

/-! ## One instruction -/

/-- Settles O36: `exec_next` gives the state left, whose fields these are. -/
theorem execChangesOnlyAccAndAppendsOneResponse : Obligations.ExecChangesOnlyAccAndAppendsOneResponse := by
  intro i s t h
  rw [exec_next h]
  exact ⟨rfl, rfl, responseTo i s.params s.acc, rfl⟩

/-- Two responses returned one after the other. -/
theorem State.respond_respond (s : State) (a b : Response) :
    (s.respond a).respond b = { s with responses := s.responses ++ [a, b] } := by
  simp [State.respond]

/-- An instruction that neither reads nor writes ACC appends a response that the constants decide. -/
theorem exec_stateless {i : Instr} (hclear : i ≠ .crcClear) (hstep : ∀ b, i ≠ .crcStep b) (hread : i ≠ .crcRead)
    (s : State) : exec i s = .next (s.respond (responseTo i s.params 0x00)) := by
  rw [exec_eq, accAfter_eq_acc hclear hstep, State.writeAcc_self, responseTo_acc_irrelevant hread s.params _ 0x00]

/-- Settles O40: by `exec_stateless`, whose response is the same in every state with these constants. -/
theorem statelessOperationsRepeat : Obligations.StatelessOperationsRepeat := by
  intro i s u hclear hstep hread hparams
  have hexec := exec_stateless hclear hstep hread
  have hs := hexec s
  have hu := hexec u
  have hagain := hexec (s.respond (responseTo i s.params 0x00))
  rw [← hparams] at hu
  rw [State.respond_respond] at hagain
  exact ⟨responseTo i s.params 0x00, hs, hu, hagain⟩

/-! ## Runs -/

/-- A list of requests is answered in its order, one response each, and neither the responses nor the ACC left depend on what
the port holds after them. -/
theorem runSteps_issue (s : State) (rs : List Request) :
    ∃ (v : Byte) (answers : List Response), answers.length = rs.length ∧ ∀ rest : List PortEvent,
      runSteps rs.length { s with inputs := issue rs ++ rest }
        = .next { acc := v, params := s.params, inputs := rest, responses := s.responses ++ answers } := by
  induction rs generalizing s with
  | nil => exact ⟨s.acc, [], rfl, fun rest => by simp⟩
  | cons r rs ih =>
    obtain ⟨w, a, htake⟩ := takeRequest_eq r s.params s.acc
    obtain ⟨v, answers, hlength, hrun⟩ := ih ((s.writeAcc w).respond a)
    refine ⟨v, a :: answers, congrArg Nat.succ hlength, fun rest => ?_⟩
    have hstep : step { s with inputs := issue (r :: rs) ++ rest }
        = .next { (s.writeAcc w).respond a with inputs := issue rs ++ rest } :=
      htake (s.withInputs (issue rs ++ rest)) rfl rfl
    rw [List.length_cons, runSteps_succ hstep, hrun, State.respond_responses, List.append_assoc]
    rfl

/-- Settles O41: `runSteps_issue` for the first requests, whose responses are fixed before the later ones are given, and again
for the later ones from the state the first ones leave. -/
theorem everyRequestGetsOneResponseInOrder : Obligations.EveryRequestGetsOneResponseInOrder := by
  intro s first
  obtain ⟨v, answers, hlength, hfirst⟩ := runSteps_issue s first
  refine ⟨answers, hlength, fun later rest => ?_⟩
  obtain ⟨w, more, hmore, hlater⟩ := runSteps_issue
    { acc := v, params := s.params, inputs := [], responses := s.responses ++ answers } later
  have hrun := (runSteps_add (hfirst (issue later ++ rest)) later.length).trans (hlater rest)
  rw [← List.append_assoc] at hrun
  exact ⟨_, more, hrun, rfl, rfl, hmore, rfl⟩

/-- Settles O42: by `step_next` every step completes, so a run of any length does. -/
theorem noRunEverStops : Obligations.NoRunEverStops := by
  intro s k
  induction k generalizing s with
  | zero => exact ⟨s, rfl⟩
  | succ k ih =>
    obtain ⟨v, rs, hstep⟩ := step_next s
    rw [runSteps_succ hstep]
    exact ih _

/-! ## The form of a response -/

/-- An error has the form of rule R120. -/
theorem raise_wf {c : ResultCode} (hc : c ≠ .ok) (n : Nat) : (raise c n).wf = true := by
  cases c with
  | ok => exact absurd rfl hc
  | _ => rfl

/-- OK with data other than a decoded frame has the form of rule R120. -/
theorem okResponse_wf {d : ResponseData} (hd : ∀ f, d ≠ .frame f) : (okResponse d).wf = true := by
  cases d with
  | frame f => exact absurd rfl (hd f)
  | _ => rfl

/-- OK with a decoded frame has the form of rule R120 where the frame's length field counts its payload. -/
theorem okResponse_frame_wf {f : DecodedFrame} (h : f.payload.length = f.length.toNat) :
    (okResponse (.frame f)).wf = true := by
  simp [Response.wf, h]

theorem encodeFrame_wf (p : Params) (c : Byte) (payload : List Byte) : (encodeFrame p c payload).wf = true := by
  unfold encodeFrame
  split
  · exact raise_wf (by decide) _
  · exact okResponse_wf nofun

theorem packImage_wf (rows : List (List Bool)) (w b m : Nat) : (packImage rows w b m).wf = true := by
  unfold packImage
  split
  · exact raise_wf (by decide) _
  · split
    · exact raise_wf (by decide) _
    · exact okResponse_wf nofun

/-- DECODE raises an error or returns a frame. -/
theorem decodeFrame_cases (p : Params) (input : List Byte) :
    (∃ c n, c ≠ .ok ∧ decodeFrame p input = raise c n) ∨ ∃ f, decodeFrame p input = okResponse (.frame f) := by
  unfold decodeFrame
  split_ifs with hmarker hshort htruncated
  · exact .inl ⟨.errMarker, _, by decide, rfl⟩
  · exact .inl ⟨.errShort, _, by decide, rfl⟩
  · exact .inl ⟨.errTruncated, _, by decide, rfl⟩
  · split
    · exact .inl ⟨.errCorrupt, _, by decide, rfl⟩
    · exact .inr ⟨_, rfl⟩

/-- A frame DECODE returns is that of an accepted input, so its length field counts its payload. -/
theorem decodeFrame_wf (p : Params) (input : List Byte) : (decodeFrame p input).wf = true := by
  obtain ⟨c, n, hc, h⟩ | ⟨f, h⟩ := decodeFrame_cases p input
  · rw [h]
    exact raise_wf hc n
  · obtain ⟨_, _, _, -, haccepted⟩ := decodeFrame_eq_frame_iff.1 h
    rw [h]
    exact okResponse_frame_wf haccepted.length_toNat.symm

/-- Every instruction's response has the form of rule R120. -/
theorem responseTo_wf (i : Instr) (p : Params) (acc : Byte) : (responseTo i p acc).wf = true := by
  cases i with
  | crcClear | crcStep | crcRead | checksum => exact okResponse_wf nofun
  | encode cmdId payload => exact encodeFrame_wf p cmdId payload
  | pack rows w b m => exact packImage_wf rows w b m
  | decode | frameGetStatus | frameSetIntensity | framePrintRequest | framePrintComplete | frameFlushData =>
    exact decodeFrame_wf p _

/-! ## The invariant of the responses -/

/-- Appending a response of the form keeps the invariant. -/
theorem respond_responsesWf {s : State} {a : Response} (hs : s.responsesWf = true) (ha : a.wf = true) :
    (s.respond a).responsesWf = true := by
  rw [State.responsesWf, State.respond_responses, List.all_append, Bool.and_eq_true]
  exact ⟨hs, by rw [List.all_cons, ha, List.all_nil, Bool.and_self]⟩

/-- Taking a request keeps the invariant: an instruction by `responseTo_wf`, an illegal code by the form of ERR_OP. -/
theorem takeRequest_responsesWf {r : Request} {s t : State} (hs : s.responsesWf = true)
    (h : takeRequest r s = .next t) : t.responsesWf = true := by
  cases hr : decode r with
  | illegalOp op =>
    rw [takeRequest_illegalOp hr] at h
    cases h
    exact respond_responsesWf hs (raise_wf (by decide) _)
  | instr i =>
    rw [takeRequest_instr hr] at h
    rw [exec_next h]
    exact respond_responsesWf hs (responseTo_wf i s.params s.acc)

/-- Settles O44: an idle step and a reset leave the responses as they are, a request is taken by
`takeRequest_responsesWf`. -/
theorem stepKeepsTheFormOfResponses : Obligations.StepKeepsTheFormOfResponses := by
  intro s t hs h
  cases hinputs : s.inputs with
  | nil =>
    rw [step_nil hinputs] at h
    cases h
    exact hs
  | cons e rest =>
    rw [step_cons hinputs] at h
    cases e with
    | request r => exact takeRequest_responsesWf (s := s.withInputs rest) hs h
    | reset =>
      cases h
      exact hs
    | resetDuring r =>
      cases h
      exact hs

/-- Settles O43: no response has been returned in the reset state. -/
theorem responsesHaveTheirFormAtReset : Obligations.ResponsesHaveTheirFormAtReset := by
  rw [Obligations.ResponsesHaveTheirFormAtReset, State.responsesWf, State.reset_responses, List.all_nil]

end Sys2Proof.Machine
end

section
/-! PROOFS. The laws of the checksum (40_checksum.md section 3): the stream law (R75), pieces (R76), and linearity over XOR
where the table is linear, a generator's table among them (R78). -/

namespace Sys2Proof.Machine

/-! ## The stream and pieces -/

/-- The fold of rule R71 written out. -/
theorem crcFold_eq_foldl (table : Vector Byte 256) (acc : Byte) (bs : List Byte) :
    crcFold table acc bs = bs.foldl (fun a b => tableAt table (a ^^^ b)) acc := rfl

/-- The requests of the CRC_STEPs over bs and of CRC_READ. -/
theorem map_encode_crcStepsRead (bs : List Byte) :
    (bs.map Instr.crcStep ++ [Instr.crcRead]).map encode
      = (bs.map fun b => encode (.crcStep b)) ++ [encode .crcRead] := by
  rw [List.map_append, List.map_map]
  rfl

/-- Settles O5: by the runs of the checksum stream, with CRC_CLEAR and without. -/
theorem byteSerialChecksumEqualsChecksum : Obligations.ByteSerialChecksumEqualsChecksum := by
  refine fun s bs rest => ⟨fun hs => ?_, fun hs => ?_⟩
  · rw [List.map_cons, map_encode_crcStepsRead] at hs
    exact runSteps_crcStream hs
  · rw [map_encode_crcStepsRead] at hs
    rw [← crcFold_eq_foldl]
    exact runSteps_crcStepsRead hs

/-- Settles O6: the fold over two bytes, and `crcFold_append`. -/
theorem checksumInPieces : Obligations.ChecksumInPieces := by
  refine fun table xs ys b0 b1 => ⟨?_, crcFold_append table 0x00 xs ys⟩
  rw [← checksum_singleton table b0]
  rfl

/-! ## Linear tables -/

/-- A function on bytes that maps XOR to XOR. -/
def XorLinear (f : Byte → Byte) : Prop := ∀ a b, f (a ^^^ b) = f a ^^^ f b

/-- Such a function maps 0 to 0, which is the XOR of a byte and itself. -/
theorem XorLinear.map_zero {f : Byte → Byte} (h : XorLinear f) : f 0x00 = 0x00 := by
  have hzero := h 0x00 0x00
  rwa [BitVec.xor_self, BitVec.xor_self] at hzero

section LinearTable

variable {table : Vector Byte 256}

/-- With a table that maps 0 to 0, zero bytes leave a zero accumulator. -/
theorem checksum_zeros (hzero : tableAt table 0x00 = 0x00) (n : Nat) :
    checksum table (List.replicate n 0x00) = 0x00 := by
  induction n with
  | zero => rfl
  | succ n ih =>
    have hstep : crcUpdate table 0x00 0x00 = 0x00 := hzero
    rw [checksum, List.replicate_succ, crcFold_cons, hstep]
    exact ih

/-- With a linear table the fold is linear in the accumulator and the bytes together. -/
theorem crcFold_xor (hlinear : XorLinear (tableAt table)) {xs ys : List Byte} (hlength : xs.length = ys.length)
    (a b : Byte) :
    crcFold table (a ^^^ b) (List.zipWith (· ^^^ ·) xs ys) = crcFold table a xs ^^^ crcFold table b ys := by
  induction xs generalizing ys a b with
  | nil =>
    obtain rfl := List.length_eq_zero_iff.1 hlength.symm
    rfl
  | cons x xs ih =>
    cases ys with
    | nil => cases hlength
    | cons y ys =>
      have hstep : crcUpdate table (a ^^^ b) (x ^^^ y) = crcUpdate table a x ^^^ crcUpdate table b y := by
        rw [crcUpdate, crcUpdate, crcUpdate, ← hlinear]
        congr 1
        ac_rfl
      rw [List.zipWith_cons_cons, crcFold_cons, crcFold_cons, crcFold_cons, hstep]
      exact ih (Nat.succ.inj hlength) _ _

/-- With a linear table the checksum is linear, its initial accumulator being 0. -/
theorem checksum_xor (hlinear : XorLinear (tableAt table)) {xs ys : List Byte} (hlength : xs.length = ys.length) :
    checksum table (List.zipWith (· ^^^ ·) xs ys) = checksum table xs ^^^ checksum table ys :=
  crcFold_xor hlinear hlength 0x00 0x00

end LinearTable

/-- Settles O7: CHECKSUM answers with the checksum, by `checksum_zeros` and `checksum_xor`. -/
theorem linearTableGivesLinearChecksum : Obligations.LinearTableGivesLinearChecksum := by
  refine fun s hzero hlinear => ⟨fun n => ?_, fun xs ys hlength => ?_⟩
  · have hanswer := answers_checksum s (List.replicate n 0x00)
    rwa [checksum_zeros hzero] at hanswer
  · have hanswer := answers_checksum s (List.zipWith (· ^^^ ·) xs ys)
    rwa [checksum_xor hlinear hlength] at hanswer

/-! ## Tables of a generator -/

/-- Of two shifted registers, p and q the bits that fell out: the generator is subtracted from their XOR where it is
subtracted from one of them alone. -/
theorem subtract_generator_xor (g x y : Byte) (p q : Bool) :
    (if p ^^ q then (x ^^^ y) ^^^ g else x ^^^ y)
      = (if p then x ^^^ g else x) ^^^ (if q then y ^^^ g else y) := by
  match p, q with
  | false, false => rfl
  | false, true => exact BitVec.xor_assoc x y g
  | true, false =>
    show (x ^^^ y) ^^^ g = (x ^^^ g) ^^^ y
    ac_rfl
  | true, true =>
    show x ^^^ y = (x ^^^ g) ^^^ (y ^^^ g)
    rw [show (x ^^^ g) ^^^ (y ^^^ g) = (x ^^^ y) ^^^ (g ^^^ g) by ac_rfl, BitVec.xor_self, BitVec.xor_zero]

/-- One bit step, the most significant bit first, is linear in the register. -/
theorem generatorBit_xorLinear (g : Byte) : XorLinear (generatorBit g) := by
  intro a b
  simp only [generatorBit, BitVec.msb_xor, BitVec.shiftLeft_xor_distrib]
  exact subtract_generator_xor g _ _ _ _

/-- The same with the least significant bit first. -/
theorem reflectedBit_xorLinear (g : Byte) : XorLinear (reflectedBit g) := by
  intro a b
  simp only [reflectedBit, BitVec.getLsbD_xor, BitVec.ushiftRight_xor_distrib]
  exact subtract_generator_xor g _ _ _ _

/-- Shifting a byte in, one linear bit step after another, is linear. -/
theorem generatorByte_xorLinear {shiftBit : Byte → Byte → Byte} {g : Byte} (h : XorLinear (shiftBit g)) :
    XorLinear (generatorByte shiftBit g) := by
  have hfold : ∀ ks : List Nat, XorLinear fun i => ks.foldl (fun r _ => shiftBit g r) i := by
    intro ks
    induction ks with
    | nil => exact fun a b => rfl
    | cons k ks ih =>
      intro a b
      simp only [List.foldl_cons, h a b]
      exact ih _ _
  exact hfold (List.range 8)

/-- A generator's table is linear, in either bit order. -/
theorem IsGeneratorTable.xorLinear {table : Vector Byte 256} {g : Byte} (h : IsGeneratorTable table g) :
    XorLinear (tableAt table) := by
  obtain h | h := h
  · rw [funext h]
    exact generatorByte_xorLinear (generatorBit_xorLinear g)
  · rw [funext h]
    exact generatorByte_xorLinear (reflectedBit_xorLinear g)

/-- Settles O8: a generator's table is linear, so O7 applies. -/
theorem generatorTableGivesLinearChecksum : Obligations.GeneratorTableGivesLinearChecksum := by
  intro s g hg
  obtain ⟨hzeros, hxor⟩ := linearTableGivesLinearChecksum s hg.xorLinear.map_zero hg.xorLinear
  exact ⟨hzeros, fun xs ys hlength =>
    ⟨_, _, answers_checksum s xs, answers_checksum s ys, hxor xs ys hlength⟩⟩

end Sys2Proof.Machine
end

section
/-! PROOFS. The buffers of PACK (42_bitmap_packer.md section 1): the value of a packed byte, and the default operands of a
`pack` line (30_encoding.md section 3). -/

namespace Sys2Proof.Machine

/-! ## The value of a packed byte -/

/-- A number below 2 ^ n is the sum of the powers of two its n bits stand for. -/
theorem mod_two_pow_eq_sum_bits (x n : Nat) :
    x % 2 ^ n = ((List.range n).map fun k => if x.testBit k then 2 ^ k else 0).sum := by
  induction n with
  | zero => simp [Nat.mod_one]
  | succ n ih =>
    rw [Nat.mod_pow_succ, ih, List.range_succ, List.map_append, List.sum_append]
    congr 1
    obtain h | h := Nat.mod_two_eq_zero_or_one (x / 2 ^ n) <;> simp [Nat.testBit_eq_decide_div_mod_eq, h]

/-- Settles O24: the byte's bits are its pixels (`packByte_pixel_bit`), and a byte is the sum of its bits' powers of two. -/
theorem packedByteIsTheSumOfItsPixels : Obligations.PackedByteIsTheSumOfItsPixels := by
  intro s rows w b m out hanswer r j row hr hj
  obtain ⟨hw, hrows, rfl⟩ := packImage_eq_ok (answers_pack_iff.1 hanswer)
  have hrow : row.length = 8 * b := (hrows row (List.mem_of_getElem? hr)).trans hw
  refine ⟨packByte row j, padTo_packRows_getElem? m hr hj, ?_⟩
  rw [← Nat.mod_eq_of_lt (packByte row j).isLt, mod_two_pow_eq_sum_bits]
  refine congrArg List.sum (List.map_congr_left fun k hk => ?_)
  rw [packByte_pixel_bit hrow hj (List.mem_range.1 hk), BitVec.testBit_toNat]
  simp

/-! ## Default operands -/

/-- A `pack` line without operands packs every bitmap of 384-pixel rows. -/
theorem answers_pack_default (s : State) {rows : List (List Bool)} (h : ∀ row ∈ rows, row.length = 384) :
    Answers (AsmLine.packInstr rows none none none) s 0x00 0
      (.bytes (padTo (90 * 48) (packRows 48 rows))) :=
  answers_pack_iff.2 (packImage_ok 90 rfl h)

/-- Eight set pixels are the byte 0xFF. -/
theorem packByte_replicate_true {n j : Nat} (h : 8 * j + 8 ≤ n) : packByte (List.replicate n true) j = 0xFF := by
  refine BitVec.eq_of_getLsbD_eq fun k hk => ?_
  have hpixel : 8 * j + k < n := by omega
  rw [packByte_getLsbD _ _ hk, List.getD_eq_getElem?_getD, List.getElem?_replicate_of_lt hpixel, Option.getD_some,
    show (0xFF : Byte) = BitVec.allOnes 8 from rfl, BitVec.getLsbD_allOnes, decide_eq_true hk]

/-- An all-true row is packed into bytes 0xFF. -/
theorem packRow_replicate_true (b : Nat) : packRow b (List.replicate (8 * b) true) = List.replicate b 0xFF := by
  refine List.eq_replicate_iff.2 ⟨packRow_length _ _, fun byte hbyte => ?_⟩
  obtain ⟨j, hj, rfl⟩ := List.mem_map.1 hbyte
  exact packByte_replicate_true (by have := List.mem_range.1 hj; omega)

/-- Settles O25: the length by `padTo_packRows_length`; the one all-true row by `packRow_replicate_true`, padded to 90
lines. -/
theorem packWithDefaultOperands : Obligations.PackWithDefaultOperands := by
  refine ⟨fun s rows hrows => ⟨_, answers_pack_default s hrows, padTo_packRows_length 90 48 rows, ?_⟩, fun s => ?_⟩
  · rw [padTo_packRows_length]
    omega
  · have hone : ∀ row ∈ [List.replicate 384 true], row.length = 384 := fun row hrow => by
      rw [List.mem_singleton.1 hrow, List.length_replicate]
    have hbytes : packRows 48 [List.replicate 384 true] = List.replicate 48 0xFF := by
      rw [packRows_cons, packRows_nil, List.append_nil]
      exact packRow_replicate_true 48
    have hanswer := answers_pack_default s hone
    rwa [hbytes, padTo, List.length_replicate, if_pos (by decide)] at hanswer

end Sys2Proof.Machine
end

section
/-! PROOFS. The assembler (30_encoding.md section 5): the default operands of `pack`, and the reading law: a line written out is
cut back into its tokens, its numbers and rows are read back, and its tokens are read as the line. -/

namespace Sys2Proof.Machine

/-! ## Samples -/

/-- Settles O46: omitted operands by the definition of the line's instruction, the samples by reading them. -/
theorem packDefaultsAndSampleLines : Obligations.PackDefaultsAndSampleLines :=
  ⟨fun _ _ _ _ => rfl, by decide, by decide, by decide, by decide, by decide, by decide⟩

/-! ## Cutting a text into tokens -/

/-- A character of a word: neither the double quote, nor a space, nor punctuation. -/
def wordChar (c : Char) : Bool := c.toNat != 34 && c != ' ' && (punctuation c).isNone

/-- The characters of a token that is a word. -/
def IsWord (cs : List Char) : Bool := !cs.isEmpty && cs.all wordChar

/-- The tokens are what their characters are cut into. -/
def Lexes (ts : List AsmToken) : Prop := tokens false [] (ts.flatMap AsmToken.chars) = some ts

/-- Tokens that may stand after a word: they do not begin with one. -/
structure Delimited (ts : List AsmToken) : Prop where
  lexes : Lexes ts
  not_word : ∀ cs ts', ts ≠ .word cs :: ts'

/-- Tokens that may stand before whatever may stand after a word. -/
def LexesBefore (ts : List AsmToken) : Prop := ∀ rest, Delimited rest → Lexes (ts ++ rest)

theorem wordChar_iff {c : Char} : wordChar c = true ↔ c.toNat ≠ 34 ∧ c ≠ ' ' ∧ punctuation c = none := by
  simp [wordChar, and_assoc]

section Unquoted

variable {c : Char} (cur cs : List Char)

/-- The double quote ends a word and begins a quoted row. -/
theorem tokens_quote (h : c.toNat = 34) : tokens false cur (c :: cs) = (tokens true [] cs).map (endWord cur) := by
  rw [tokens, if_neg (by decide), if_pos h]

/-- A space ends a word. -/
theorem tokens_space (h : c = ' ') : tokens false cur (c :: cs) = (tokens false [] cs).map (endWord cur) := by
  rw [h]
  rfl

/-- Punctuation ends a word and is a token. -/
theorem tokens_mark {p : AsmToken} (hquote : c.toNat ≠ 34) (hspace : c ≠ ' ') (h : punctuation c = some p) :
    tokens false cur (c :: cs) = (tokens false [] cs).map fun ts => endWord cur (p :: ts) := by
  rw [tokens, if_neg (by decide), if_neg hquote, if_neg hspace, h]

/-- Any other character is gathered. -/
theorem tokens_wordChar (h : wordChar c = true) : tokens false cur (c :: cs) = tokens false (c :: cur) cs := by
  obtain ⟨hquote, hspace, hmark⟩ := wordChar_iff.1 h
  rw [tokens, if_neg (by decide), if_neg hquote, if_neg hspace, hmark]

end Unquoted

/-- A word's characters are gathered. -/
theorem tokens_wordChars {cs : List Char} (h : cs.all wordChar = true) (cur rest : List Char) :
    tokens false cur (cs ++ rest) = tokens false (cs.reverse ++ cur) rest := by
  induction cs generalizing cur with
  | nil => rfl
  | cons c cs ih =>
    obtain ⟨hc, hcs⟩ : wordChar c = true ∧ cs.all wordChar = true := by simpa using h
    rw [List.cons_append, tokens_wordChar _ _ hc, ih hcs, List.reverse_cons, List.append_assoc,
      List.singleton_append]

/-- The word gathered is its characters in their order. -/
theorem endWord_reverse {cs : List Char} (h : cs ≠ []) (ts : List AsmToken) :
    endWord cs.reverse ts = .word cs :: ts := by
  cases hr : cs.reverse with
  | nil => exact absurd (List.reverse_eq_nil_iff.1 hr) h
  | cons c cs' => rw [endWord, ← hr, List.reverse_reverse]

/-- Where the text is at its end or at no word's character, the word gathered so far ends. -/
theorem tokens_endWord {rest : List Char} (h : ∀ c ∈ rest.head?, wordChar c = false) (cur : List Char) :
    tokens false cur rest = (tokens false [] rest).map (endWord cur) := by
  cases rest with
  | nil => rfl
  | cons c cs =>
    by_cases hquote : c.toNat = 34
    · rw [tokens_quote _ _ hquote, tokens_quote _ _ hquote, Option.map_map]
      rfl
    by_cases hspace : c = ' '
    · rw [tokens_space _ _ hspace, tokens_space _ _ hspace, Option.map_map]
      rfl
    cases hmark : punctuation c with
    | none => exact absurd (wordChar_iff.2 ⟨hquote, hspace, hmark⟩) (by simpa using h)
    | some p =>
      rw [tokens_mark _ _ hquote hspace hmark, tokens_mark _ _ hquote hspace hmark, Option.map_map]
      rfl

/-- A quoted row's characters are gathered up to the closing quote. -/
theorem tokens_quoted {cs : List Char} (h : ∀ c ∈ cs, c.toNat ≠ 34) (cur rest : List Char) :
    tokens true cur (cs ++ Char.ofNat 34 :: rest)
      = (tokens false [] rest).map fun ts => .text (cs.reverse ++ cur).reverse :: ts := by
  induction cs generalizing cur with
  | nil => rfl
  | cons c cs ih =>
    obtain ⟨hc, hcs⟩ := List.forall_mem_cons.1 h
    rw [List.cons_append, tokens, if_pos rfl, if_neg hc, ih hcs]
    simp

/-! ## Token by token -/

/-- The tokens that are punctuation. -/
def AsmToken.isMark : AsmToken → Bool
  | .word _ => false
  | .text _ => false
  | _ => true

theorem lexes_nil : Lexes [] := rfl

theorem delimited_nil : Delimited [] := ⟨lexes_nil, nofun⟩

/-- Punctuation before tokens, a comma with the space after it. -/
theorem Lexes.mark {t : AsmToken} {ts : List AsmToken} (h : Lexes ts) (ht : t.isMark = true) : Delimited (t :: ts) := by
  have hlexes : Lexes (t :: ts) := by
    unfold Lexes at h ⊢
    cases t with
    | word cs => cases ht
    | text cs => cases ht
    | comma =>
      have hcut : ∀ cs, tokens false [] (AsmToken.comma.chars ++ cs) = (tokens false [] cs).map (.comma :: ·) := by
        intro cs
        refine (tokens_mark [] (' ' :: cs) (by decide) (by decide) (p := .comma) rfl).trans ?_
        rw [tokens_space _ _ rfl, Option.map_map]
        rfl
      rw [List.flatMap_cons, hcut, h, Option.map_some]
    | lbrack | rbrack | lparen | rparen | equals =>
      exact congrArg (Option.map fun ts => endWord [] (_ :: ts)) h
  refine ⟨hlexes, ?_⟩
  rintro cs ts' heq
  cases heq
  cases ht

/-- A quoted row before tokens. -/
theorem Lexes.text {cs : List Char} {ts : List AsmToken} (h : Lexes ts) (hcs : ∀ c ∈ cs, c.toNat ≠ 34) :
    Delimited (.text cs :: ts) := by
  refine ⟨?_, nofun⟩
  have hquote : ∀ rest, tokens false [] (Char.ofNat 34 :: rest) = (tokens true [] rest).map (endWord []) :=
    fun _ => rfl
  unfold Lexes at h ⊢
  rw [List.flatMap_cons, AsmToken.chars, List.cons_append, List.append_assoc, List.singleton_append, hquote,
    tokens_quoted hcs, h]
  simp [endWord]

/-- The characters of delimited tokens do not begin with a word's character. -/
theorem Delimited.head_chars {ts : List AsmToken} (h : Delimited ts) :
    ∀ c ∈ (ts.flatMap AsmToken.chars).head?, wordChar c = false := by
  cases ts with
  | nil => nofun
  | cons t ts =>
    cases t with
    | word cs => exact absurd rfl (h.not_word cs ts)
    | _ =>
      rintro c hc
      obtain rfl := Option.some.inj hc
      decide

/-- A word before tokens that do not begin with one. -/
theorem lexesBefore_word {cs : List Char} (h : IsWord cs = true) : LexesBefore [.word cs] := by
  intro rest hrest
  obtain ⟨hne, hcs⟩ : cs ≠ [] ∧ cs.all wordChar = true := by simpa [IsWord] using h
  have hlexes := hrest.lexes
  unfold Lexes at hlexes ⊢
  rw [List.singleton_append, List.flatMap_cons, AsmToken.chars, tokens_wordChars hcs, List.append_nil,
    tokens_endWord hrest.head_chars, hlexes, Option.map_some, endWord_reverse hne]

/-! ## Numbers -/

/-- A digit is a word's character and has its value. -/
theorem digitChar_spec : ∀ d < 16, wordChar (digitChar d) = true ∧ digitValue (digitChar d) = some d
    ∧ digitChar d ≠ 'x' := by
  decide

/-- Digits written most significant first are read as the number they write. -/
theorem digitsValue_map_digitChar {base : Nat} (hbase : base ≤ 16) {ds : List Nat} (h : ∀ d ∈ ds, d < base)
    (acc : Nat) :
    digitsValue base acc (ds.map digitChar) = some (ds.foldl (fun a d => base * a + d) acc) := by
  induction ds generalizing acc with
  | nil => rfl
  | cons d ds ih =>
    obtain ⟨hd, hds⟩ := List.forall_mem_cons.1 h
    obtain ⟨-, hvalue, -⟩ := digitChar_spec d (hd.trans_le hbase)
    rw [List.map_cons, digitsValue, hvalue]
    simp only [if_pos hd, ih hds, List.foldl_cons]

/-- Digits without an `x` among them are read as decimal. -/
theorem numberOf_decimal {c : Char} {cs : List Char} (h : 'x' ∉ cs) :
    numberOf (c :: cs) = digitsValue 10 0 (c :: cs) := by
  unfold numberOf
  split
  · next heq => cases heq
  · next heq =>
    cases heq
    exact absurd List.mem_cons_self h
  · next heq =>
    cases heq
    rfl

/-- A natural is written in decimal digits that write it, at least one. -/
theorem decimalText_eq (n : Nat) :
    ∃ ds : List Nat, decimalText n = ds.map digitChar ∧ ds ≠ [] ∧ (∀ d ∈ ds, d < 10)
      ∧ ds.foldl (fun a d => 10 * a + d) 0 = n := by
  by_cases hn : n = 0
  · subst hn
    exact ⟨[0], rfl, by simp, by simp, rfl⟩
  · refine ⟨(Nat.digits 10 n).reverse, by rw [decimalText, if_neg hn],
      List.reverse_ne_nil_iff.2 (Nat.digits_ne_nil_iff_ne_zero.2 hn),
      fun d hd => Nat.digits_lt_base (by decide) (List.mem_reverse.1 hd), ?_⟩
    rw [List.foldl_reverse]
    refine Eq.trans ?_ (Nat.ofDigits_digits 10 n)
    rw [Nat.ofDigits_eq_foldr]
    simp [Nat.add_comm]

/-- Digits are word characters. -/
theorem all_wordChar_map_digitChar {ds : List Nat} (h : ∀ d ∈ ds, d < 16) :
    (ds.map digitChar).all wordChar = true := by
  rw [List.all_map, List.all_eq_true]
  exact fun d hd => (digitChar_spec d (h d hd)).1

theorem isWord_decimalText (n : Nat) : IsWord (decimalText n) = true := by
  obtain ⟨ds, htext, hne, hlt, -⟩ := decimalText_eq n
  rw [htext, IsWord, all_wordChar_map_digitChar fun d hd => (hlt d hd).trans (by decide)]
  simpa using hne

/-- A natural written in decimal is read back. -/
@[simp] theorem numberOf_decimalText (n : Nat) : numberOf (decimalText n) = some n := by
  obtain ⟨ds, htext, hne, hlt, hvalue⟩ := decimalText_eq n
  obtain ⟨d, ds, rfl⟩ := List.exists_cons_of_ne_nil hne
  have hx : 'x' ∉ ds.map digitChar := by
    rw [List.mem_map]
    rintro ⟨e, he, heq⟩
    have hdigit := (hlt e (List.mem_cons_of_mem d he)).trans (by decide : 10 < 16)
    exact (digitChar_spec e hdigit).2.2 heq
  rw [htext, List.map_cons, numberOf_decimal hx, ← List.map_cons, digitsValue_map_digitChar (by decide) hlt, hvalue]

/-- A byte is written `0x` and its two hexadecimal digits. -/
theorem byteText_eq (b : Byte) : byteText b = '0' :: 'x' :: [b.toNat / 16, b.toNat % 16].map digitChar := rfl

theorem byte_digits_lt (b : Byte) : ∀ d ∈ [b.toNat / 16, b.toNat % 16], d < 16 := by
  have hb := b.isLt
  intro d hd
  simp only [List.mem_cons, List.not_mem_nil, or_false] at hd
  omega

theorem isWord_byteText (b : Byte) : IsWord (byteText b) = true :=
  all_wordChar_map_digitChar (byte_digits_lt b)

/-- A byte written out is read back. -/
@[simp] theorem byteOf_byteText (b : Byte) : byteOf (byteText b) = some b := by
  have hnumber : numberOf (byteText b) = some b.toNat := by
    have hdigits := digitsValue_map_digitChar (Nat.le_refl 16) (byte_digits_lt b) 0
    rw [show [b.toNat / 16, b.toNat % 16].foldl (fun a d => 16 * a + d) 0 = b.toNat from
      by simp [Nat.div_add_mod]] at hdigits
    exact hdigits
  have hb : b.toNat ≤ 255 := Nat.le_of_lt_succ b.isLt
  rw [byteOf, hnumber]
  simp [hb]

/-! ## Rows -/

/-- A row written as 0s and 1s is read back. -/
@[simp] theorem bitsOf_map_bitText (row : List Bool) : bitsOf (row.map bitText) = some row := by
  induction row with
  | nil => rfl
  | cons p row ih => cases p <;> simp [bitText, bitsOf, ih]

theorem wordChar_bitText (p : Bool) : wordChar (bitText p) = true := by
  cases p <;> decide

theorem isWord_map_bitText {row : List Bool} (h : row ≠ []) : IsWord (row.map bitText) = true := by
  simp [IsWord, h, wordChar_bitText]

/-! ## The operands as tokens -/

/-- Elements separated by commas, after the first. -/
theorem lexes_elements {es : List (List AsmToken)} (h : ∀ e ∈ es, LexesBefore e) {rest : List AsmToken}
    (hrest : Delimited rest) : Delimited (es.flatMap (fun e => .comma :: e) ++ rest) := by
  induction es with
  | nil => exact hrest
  | cons e es ih =>
    obtain ⟨he, hes⟩ := List.forall_mem_cons.1 h
    rw [List.flatMap_cons, List.append_assoc, List.cons_append]
    exact (he _ (ih hes)).mark rfl

/-- A list in square brackets. -/
theorem lexes_listTokens {es : List (List AsmToken)} (h : ∀ e ∈ es, LexesBefore e) {rest : List AsmToken}
    (hrest : Lexes rest) : Lexes (listTokens es ++ rest) := by
  cases es with
  | nil => exact ((hrest.mark rfl).lexes.mark rfl).lexes
  | cons e es =>
    obtain ⟨he, hes⟩ := List.forall_mem_cons.1 h
    rw [listTokens, List.cons_append, List.append_assoc, List.append_assoc]
    exact ((he _ (lexes_elements hes (hrest.mark rfl))).mark rfl).lexes

theorem lexes_bytesTokens (bs : List Byte) : Lexes (bytesTokens bs) := by
  have hlist := lexes_listTokens (es := bs.map fun b => [.word (byteText b)]) (fun e he => by
    obtain ⟨b, -, rfl⟩ := List.mem_map.1 he
    exact lexesBefore_word (isWord_byteText b)) lexes_nil
  rwa [List.append_nil] at hlist

theorem lexesBefore_rowTokens (row : List Bool) : LexesBefore (rowTokens row) := by
  cases row with
  | nil => exact fun rest hrest => ((hrest.lexes.mark rfl).lexes.mark rfl).lexes
  | cons p ps => exact lexesBefore_word (isWord_map_bitText (List.cons_ne_nil p ps))

/-- A row in any of its forms. -/
theorem lexesBefore_rowForm (form : RowForm) : LexesBefore form.tokens := by
  cases form with
  | bits row => exact lexesBefore_rowTokens row
  | quoted row =>
    refine fun rest hrest => (hrest.lexes.text fun c hc => ?_).lexes
    obtain ⟨p, -, rfl⟩ := List.mem_map.1 hc
    exact (wordChar_iff.1 (wordChar_bitText p)).1
  | fill n v =>
    intro rest hrest
    have hvalue := lexesBefore_word (isWord_map_bitText (row := [v]) (by simp)) _ (hrest.lexes.mark (t := .rparen) rfl)
    have hcount := lexesBefore_word (isWord_decimalText n) _ (hvalue.mark (t := .comma) rfl)
    exact lexesBefore_word (cs := "fill".toList) (by decide) _ (hcount.mark (t := .lparen) rfl)

/-- The rows of a bitmap in any of their forms. -/
theorem lexes_rowsForm (form : RowsForm) {rest : List AsmToken} (hrest : Lexes rest) : Lexes (form.tokens ++ rest) := by
  cases form with
  | list rows =>
    refine lexes_listTokens (fun e he => ?_) hrest
    obtain ⟨form, -, rfl⟩ := List.mem_map.1 he
    exact lexesBefore_rowForm form
  | rep k row =>
    have hrow := lexesBefore_rowForm row _ (hrest.mark (t := .rparen) rfl)
    have hcount := lexesBefore_word (isWord_decimalText k) _ (hrow.mark (t := .comma) rfl)
    have hrep := lexesBefore_word (cs := "rep".toList) (by decide) _ (hcount.mark (t := .lparen) rfl)
    simpa [RowsForm.tokens] using hrep

/-- An optional operand of PACK. -/
theorem delimited_packOperandTokens {name : String} (hname : IsWord name.toList = true) (v : Option Nat)
    {rest : List AsmToken} (hrest : Delimited rest) : Delimited (packOperandTokens name v ++ rest) := by
  cases v with
  | none => exact hrest
  | some n =>
    have hvalue := lexesBefore_word (isWord_decimalText n) rest hrest
    exact (lexesBefore_word hname _ (hvalue.mark (t := .equals) rfl)).mark (t := .comma) rfl

theorem delimited_packOperandsTokens (w b m : Option Nat) : Delimited (packOperandsTokens w b m) := by
  have hm := delimited_packOperandTokens (name := "minLines") (by decide) m delimited_nil
  have hb := delimited_packOperandTokens (name := "bytesPerRow") (by decide) b hm
  have hw := delimited_packOperandTokens (name := "rowWidth") (by decide) w hb
  rwa [List.append_nil, ← List.append_assoc] at hw

/-- The operands of every line are what their characters are cut into. -/
theorem lexes_operandTokens (l : AsmLine) : Lexes l.operandTokens := by
  have hbyte : ∀ b, Lexes [.word (byteText b)] := fun b => lexesBefore_word (isWord_byteText b) [] delimited_nil
  cases l with
  | crcClear | crcRead | frameFlush => exact lexes_nil
  | crcStep b | frameSetIntensity b => exact hbyte b
  | checksum bs | decode bs | frameGetStatus bs | checksumStream bs => exact lexes_bytesTokens bs
  | encode cmdId payload =>
    exact lexesBefore_word (isWord_byteText cmdId) _ ((lexes_bytesTokens payload).mark (t := .comma) rfl)
  | pack rows w b m => exact lexes_rowsForm (.list (rows.map .bits)) (delimited_packOperandsTokens w b m).lexes
  | framePrintRequest lines k mode =>
    have hk := lexesBefore_word (isWord_byteText k) _ ((hbyte mode).mark (t := .comma) rfl)
    exact lexesBefore_word (isWord_decimalText lines) _ (hk.mark (t := .comma) rfl)

/-- A line is cut into its mnemonic and its operands. -/
theorem tokens_lineChars {mnemonic : String} (hword : IsWord mnemonic.toList = true) {operands : List AsmToken}
    (h : Lexes operands) :
    tokens false [] (lineChars mnemonic operands) = some (.word mnemonic.toList :: operands) := by
  cases operands with
  | nil => simpa [Lexes, AsmToken.chars, lineChars] using lexesBefore_word hword [] delimited_nil
  | cons t ts =>
    obtain ⟨hne, hcs⟩ : mnemonic.toList ≠ [] ∧ mnemonic.toList.all wordChar = true := by simpa [IsWord] using hword
    unfold Lexes at h
    rw [lineChars, tokens_wordChars hcs, tokens_space _ _ rfl, h, List.append_nil, Option.map_some, endWord_reverse hne]

/-! ## Reading byte sequences -/

/-- The bytes after the first, up to the closing bracket. -/
theorem byteListRest_tokens (bs : List Byte) (rest : List AsmToken) :
    byteListRest ((bs.map fun b => [.word (byteText b)]).flatMap (fun e => .comma :: e) ++ .rbrack :: rest)
      = some (bs, rest) := by
  induction bs with
  | nil => rfl
  | cons b bs ih =>
    rw [List.map_cons, List.flatMap_cons, List.cons_append, List.cons_append, List.append_assoc, List.singleton_append,
      byteListRest, byteOf_byteText, ih]

/-- A byte sequence written out is read back. -/
theorem lastByteList_bytesTokens (bs : List Byte) : lastByteList (bytesTokens bs) = some bs := by
  have hlist : byteList (bytesTokens bs) = some (bs, []) := by
    cases bs with
    | nil => rfl
    | cons b bs =>
      rw [bytesTokens, List.map_cons, listTokens, List.append_assoc, List.singleton_append, byteList, byteOf_byteText,
        byteListRest_tokens]
  rw [lastByteList, hlist]

/-! ## Reading rows -/

/-- A bare word that no parenthesis follows is read as bits. -/
theorem rowOf_word (cs : List Char) {rest : List AsmToken} (h : ∀ ts, rest ≠ .lparen :: ts) :
    rowOf (.word cs :: rest) = (bitsOf cs).map fun row => (row, rest) := by
  unfold rowOf
  split
  · next heq =>
    cases heq
    exact absurd rfl (h _)
  · next heq =>
    cases heq
    rfl
  · next heq => cases heq
  · next heq => cases heq
  · next hword _ _ => exact absurd rfl (hword cs rest)

/-- A row in any of its forms is read as the row it writes. -/
theorem rowOf_tokens (form : RowForm) {rest : List AsmToken} (h : ∀ ts, rest ≠ .lparen :: ts) :
    rowOf (form.tokens ++ rest) = some (form.row, rest) := by
  cases form with
  | bits row =>
    cases row with
    | nil => rfl
    | cons p ps =>
      refine (rowOf_word _ h).trans ?_
      rw [bitsOf_map_bitText]
      rfl
  | quoted row =>
    have hrow : rowOf (.text (row.map bitText) :: rest) = (bitsOf (row.map bitText)).map fun row => (row, rest) := rfl
    rw [bitsOf_map_bitText] at hrow
    exact hrow
  | fill n v =>
    have hv : bitsOf [bitText v] = some [v] := bitsOf_map_bitText [v]
    simp [RowForm.tokens, rowOf, hv, RowForm.row]

/-- After an element of a list stands a comma or the closing bracket. -/
theorem elements_ne_lparen (es : List (List AsmToken)) (rest ts : List AsmToken) :
    es.flatMap (fun e => AsmToken.comma :: e) ++ .rbrack :: rest ≠ .lparen :: ts := by
  cases es <;> nofun

/-- The rows after the first, up to the closing bracket, with fuel for each. -/
theorem rowListRest_tokens (forms : List RowForm) (rest : List AsmToken) {fuel : Nat} (h : forms.length ≤ fuel) :
    rowListRest fuel ((forms.map RowForm.tokens).flatMap (fun e => .comma :: e) ++ .rbrack :: rest)
      = some (forms.map RowForm.row, rest) := by
  induction forms generalizing fuel with
  | nil => cases fuel <;> rfl
  | cons form forms ih =>
    cases fuel with
    | zero => cases h
    | succ fuel =>
      rw [List.map_cons, List.flatMap_cons, List.cons_append, List.cons_append, List.append_assoc, rowListRest,
        rowOf_tokens form (elements_ne_lparen _ rest)]
      simp only [ih (Nat.le_of_succ_le_succ h), Option.map_some, List.map_cons]

/-- Each element after the first has its comma, so there are no more elements than tokens. -/
theorem length_le_length_elements (es : List (List AsmToken)) :
    es.length ≤ (es.flatMap fun e => .comma :: e).length := by
  induction es with
  | nil => exact Nat.le_refl 0
  | cons e es ih =>
    simp only [List.flatMap_cons, List.length_append, List.length_cons]
    omega

/-- No row begins with a closing bracket. -/
theorem rowForm_tokens_ne_rbrack (form : RowForm) (rest ts : List AsmToken) : form.tokens ++ rest ≠ .rbrack :: ts := by
  cases form with
  | bits row => cases row <;> nofun
  | quoted row => nofun
  | fill n v => nofun

/-- After an opening bracket and a first row, the other rows up to the closing bracket. -/
theorem rowList_lbrack {form : RowForm} {rest ts : List AsmToken} {row : List Bool}
    (h : rowOf (form.tokens ++ rest) = some (row, ts)) :
    rowList (.lbrack :: (form.tokens ++ rest)) = (rowListRest ts.length ts).map fun p => (row :: p.1, p.2) := by
  rw [rowList, h]
  exact rowForm_tokens_ne_rbrack form rest

/-- The rows of a bitmap, in any of their forms, are read as the rows they write. -/
theorem rowList_tokens (form : RowsForm) (rest : List AsmToken) :
    rowList (form.tokens ++ rest) = some (form.rows, rest) := by
  cases form with
  | list forms =>
    cases forms with
    | nil => rfl
    | cons form forms =>
      have hfuel := length_le_length_elements (forms.map RowForm.tokens)
      rw [List.length_map] at hfuel
      rw [RowsForm.tokens, List.map_cons, listTokens, List.cons_append, List.append_assoc, List.append_assoc,
        List.singleton_append, rowList_lbrack (rowOf_tokens form (elements_ne_lparen _ rest)),
        rowListRest_tokens forms rest (hfuel.trans (List.sublist_append_left _ _).length_le)]
      rfl
  | rep k row =>
    have hrow := rowOf_tokens row (rest := .rparen :: rest) nofun
    simp [RowsForm.tokens, rowList, hrow, RowsForm.rows]

/-! ## Reading PACK's operands -/

/-- The tokens do not begin with an operand of this name. -/
def OtherOperand (name : String) (ts : List AsmToken) : Prop :=
  ∀ cs ts', ts = .comma :: .word cs :: ts' → cs ≠ name.toList

theorem otherOperand_nil (name : String) : OtherOperand name [] := nofun

theorem OtherOperand.tokens {name other : String} (hother : other.toList ≠ name.toList) (v : Option Nat)
    {rest : List AsmToken} (h : OtherOperand name rest) : OtherOperand name (packOperandTokens other v ++ rest) := by
  cases v with
  | none => exact h
  | some n =>
    intro cs ts' heq
    cases heq
    exact hother

/-- An operand written out is read as its value, an omitted one as none. -/
theorem packOperand_tokens {name : String} (v : Option Nat) {rest : List AsmToken} (h : OtherOperand name rest) :
    packOperand name (packOperandTokens name v ++ rest) = some (v, rest) := by
  cases v with
  | some n => simp [packOperandTokens, packOperand]
  | none =>
    rw [packOperandTokens, List.nil_append]
    unfold packOperand
    split
    · rw [if_neg (h _ _ rfl)]
    · rfl

/-- The operands of `pack` are read back. -/
theorem packLine_tokens (form : RowsForm) (w b m : Option Nat) :
    packLine (form.tokens ++ packOperandsTokens w b m) = some (.pack form.rows w b m) := by
  have hm := packOperand_tokens m (otherOperand_nil "minLines")
  have hb := packOperand_tokens b
    ((otherOperand_nil "bytesPerRow").tokens (other := "minLines") (by decide) m)
  have hw := packOperand_tokens w
    (((otherOperand_nil "rowWidth").tokens (other := "minLines") (by decide) m).tokens
      (other := "bytesPerRow") (by decide) b)
  rw [List.append_nil] at hm hb hw
  simp only [packLine, rowList_tokens, packOperandsTokens, List.append_assoc, hw, hb, hm]

/-! ## Reading a line -/

/-- A byte sequence begins with its bracket. -/
theorem bytesTokens_eq_lbrack (bs : List Byte) : ∃ ts, bytesTokens bs = .lbrack :: ts := by
  cases bs with
  | nil => exact ⟨_, rfl⟩
  | cons b bs => exact ⟨_, rfl⟩

/-- A line whose operand is a byte sequence. -/
theorem lineOf_bytesTokens {w : List Char} (hw : w ≠ "pack".toList) (bs : List Byte) :
    lineOf (.word w :: bytesTokens bs) = bytesLine w bs := by
  have hbytes := lastByteList_bytesTokens bs
  obtain ⟨ts, hts⟩ := bytesTokens_eq_lbrack bs
  rw [hts] at hbytes ⊢
  simp only [lineOf, if_neg hw, hbytes]

/-- A `pack` line, its rows in any of their forms. -/
theorem lineOf_pack (form : RowsForm) (w b m : Option Nat) :
    lineOf (.word "pack".toList :: (form.tokens ++ packOperandsTokens w b m)) = some (.pack form.rows w b m) := by
  have hpack : lineOf (.word "pack".toList :: (form.tokens ++ packOperandsTokens w b m))
      = packLine (form.tokens ++ packOperandsTokens w b m) := by
    cases form with
    | list forms => cases forms <;> rfl
    | rep k row => rfl
  rw [hpack, packLine_tokens]

/-- The tokens of every line are read as the line. -/
theorem lineOf_operandTokens {l : AsmLine} (hwf : l.wf = true) :
    lineOf (.word l.mnemonic.toList :: l.operandTokens) = some l := by
  have hbyte : ∀ (w : List Char) (b : Byte), lineOf [.word w, .word (byteText b)] = byteLine w b := by
    intro w b
    simp only [lineOf, byteOf_byteText]
  cases l with
  | crcClear | crcRead | frameFlush => decide
  | crcStep b | frameSetIntensity b =>
    refine (hbyte _ b).trans ?_
    simp [AsmLine.mnemonic, byteLine]
  | checksum bs | decode bs | frameGetStatus bs | checksumStream bs =>
    refine (lineOf_bytesTokens (by simp [AsmLine.mnemonic]) bs).trans ?_
    simp [AsmLine.mnemonic, bytesLine]
  | encode cmdId payload =>
    have hpayload := lastByteList_bytesTokens payload
    obtain ⟨ts, hts⟩ := bytesTokens_eq_lbrack payload
    rw [hts] at hpayload
    simp only [AsmLine.operandTokens, AsmLine.mnemonic, hts, lineOf]
    simp [encodeLine, hpayload]
  | pack rows w b m =>
    refine (lineOf_pack (.list (rows.map .bits)) w b m).trans ?_
    simp [RowsForm.rows, Function.comp_def, RowForm.row]
  | framePrintRequest lines k mode =>
    have hlines : lines ≤ 65535 := by simpa [AsmLine.wf] using hwf
    simp [AsmLine.operandTokens, AsmLine.mnemonic, lineOf, printRequestLine, hlines]

/-- The mnemonic of every line is a word. -/
theorem isWord_mnemonic (l : AsmLine) : IsWord l.mnemonic.toList = true := by
  cases l <;> simp only [AsmLine.mnemonic] <;> decide

/-- A text whose characters are cut into the tokens of a line is read as the line. -/
theorem parseLine_lineChars {text mnemonic : String} {operands : List AsmToken} {l : AsmLine}
    (htext : text.toList = lineChars mnemonic operands) (hword : IsWord mnemonic.toList = true)
    (hlexes : Lexes operands) (hline : lineOf (.word mnemonic.toList :: operands) = some l) :
    parseLine text = some l ∧ assemble text = some l.requests := by
  have hparse : parseLine text = some l := by
    rw [parseLine, htext, tokens_lineChars hword hlexes]
    exact hline
  exact ⟨hparse, by rw [assemble, hparse, Option.map_some]⟩

/-- Settles O47: the characters are cut into the line's tokens (`lexes_operandTokens`, `lexes_rowsForm`), which are read as the
line (`lineOf_operandTokens`, `lineOf_pack`). -/
theorem assemblerReadsEveryLine : Obligations.AssemblerReadsEveryLine :=
  ⟨fun l _ hwf htext =>
      parseLine_lineChars htext (isWord_mnemonic l) (lexes_operandTokens l) (lineOf_operandTokens hwf),
    fun form w b m _ htext =>
      parseLine_lineChars htext (by decide) (lexes_rowsForm form (delimited_packOperandsTokens w b m).lexes)
        (lineOf_pack form w b m)⟩

end Sys2Proof.Machine
end
